-- ==== Sys2Proof/Word.lean ====
section
/-! DEFINITION. The word types and the names of lines, buses and refusal reasons (00_scope R7, 20_memory R41,
30_encoding R60, 60_exceptions R116). -/
namespace Sys2Proof

/-- An 8-bit unsigned value: the byte to transmit, `W`, `SR.store`, `SR.out` (00_scope R7, `WIDTH` = 8). -/
abbrev Byte := BitVec 8

/-- A CMD16 command word (30_encoding R60, R61). -/
abbrev CmdWord := BitVec 16

/-- A LINEOP3 line operation code (30_encoding R60, R67). -/
abbrev LineCode := BitVec 3

/-- The 4-bit bit counter `K` (10_state R19). -/
abbrev BitCount := BitVec 4

/-- The level of a line: `false` is 0 (low), `true` is 1 (high) (10_state R25). -/
abbrev Level := Bool

/-- The three lines (20_memory R41). -/
inductive Line where
  | data   -- Data
  | sclk   -- ShiftClock
  | latch  -- Latch
  deriving DecidableEq, Repr

/-- One value for each line, as `level[l]` and `dir[l]` of 10_state R25. -/
structure PerLine (α : Type) where
  data  : α
  sclk  : α
  latch : α
  deriving DecidableEq, Repr

/-- The two formats. They never share a bus, so a decoder knows which one it holds (30_encoding R60). -/
inductive BusWord where
  /-- A command word from the host. -/
  | cmd16 (c : CmdWord)
  /-- A line operation from the engine or the reset sequence. -/
  | lineop3 (o : LineCode)
  deriving DecidableEq, Repr

/-- The reasons of `raise Refuse(reason)`, each with the information it records (60_exceptions R116). -/
inductive RefuseReason where
  /-- Code 1: a command word with `rsv` = 0 and no such `op`. -/
  | rsvOp (c : CmdWord)
  /-- Code 2: a command word with `rsv` not 0. -/
  | rsvBits (c : CmdWord)
  /-- Code 3: a CLEAR word with `imm8` not 0. -/
  | clearImm (c : CmdWord)
  /-- Code 4: the reserved line operation code. -/
  | rsvLineop (o : LineCode)
  /-- Code 5: a line write to a line that is not an output. -/
  | lineNotOutput (l : Line)
  /-- Code 6: the reserved phase value. -/
  | badPhase (p : BitVec 3)
  deriving DecidableEq, Repr

end Sys2Proof
end

