-- ==== Sys2Proof/Syntax.lean ====
section
/-! DEFINITION. The instructions: one constructor per row of spec/opcode_table.json. -/
namespace Sys2Proof

/-- The two commands of the engine and the seven operations of the line driver. -/
inductive Instr where
  /-- `PUSH imm8`, CMD16 (41_shift_engine R85). -/
  | push (imm8 : Byte)
  /-- `CLEAR`, CMD16 (41_shift_engine R86). -/
  | clear
  /-- `DATA_LOW`, LINEOP3 000 (40_line_driver R76). -/
  | dataLow
  /-- `DATA_HIGH`, LINEOP3 001 (40_line_driver R77). -/
  | dataHigh
  /-- `SCLK_LOW`, LINEOP3 010 (40_line_driver R78). -/
  | sclkLow
  /-- `SCLK_HIGH`, LINEOP3 011 (40_line_driver R79). -/
  | sclkHigh
  /-- `LATCH_LOW`, LINEOP3 100 (40_line_driver R80). -/
  | latchLow
  /-- `LATCH_HIGH`, LINEOP3 101 (40_line_driver R81). -/
  | latchHigh
  /-- `INIT`, LINEOP3 110 (40_line_driver R82). -/
  | init
  deriving DecidableEq, Repr

end Sys2Proof
end

