-- ==== Sys2Proof/WellFormed.lean ====
section
/-! DEFINITION. Which terms may be written. Every `Instr` is well-formed, because its one operand has the type of its field
(30_encoding R62); the checks that can fail are those of a host program's lines (30_encoding R71, R73). -/
namespace Sys2Proof

/-- Every term of `Instr` is an instruction the spec has: all 256 operands of PUSH are legal (30_encoding R62), and the other
rows have no operand. -/
def Instr.wellFormed : Instr → Bool
  | .push _ => true
  | .clear => true
  | .dataLow => true
  | .dataHigh => true
  | .sclkLow => true
  | .sclkHigh => true
  | .latchLow => true
  | .latchHigh => true
  | .init => true

/-- An unsigned number as the assembler reads it, most significant digit first: decimal, `0x` or `0b` (30_encoding R73). -/
inductive Numeral where
  | dec (digits : List (Fin 10))
  | hex (digits : List (Fin 16))
  | bin (digits : List (Fin 2))
  deriving DecidableEq, Repr

/-- The value of a numeral. -/
def Numeral.value : Numeral → Nat
  | .dec ds => ds.foldl (fun n d => n * 10 + d.val) 0
  | .hex ds => ds.foldl (fun n d => n * 16 + d.val) 0
  | .bin ds => ds.foldl (fun n d => n * 2 + d.val) 0

/-- One line of a program listing, without its comment (30_encoding R73, R74). -/
inductive HostLine where
  /-- `PUSH <imm8>`. -/
  | push (imm8 : Numeral)
  /-- `CLEAR`. -/
  | clear
  /-- `.word <hex16>`: a raw command word. -/
  | word (c : CmdWord)
  /-- `RESET`: the assertion of `rst`; not a command word. -/
  | reset
  /-- `WAIT <ms>`: a host step; no command word. -/
  | wait (ms : Nat)
  /-- The mnemonic of a line operation. It stands in traces only, never in a host program (30_encoding R71). -/
  | lineOp (o : LineCode)
  deriving DecidableEq, Repr

/-- What the assembler accepts in a host program: a PUSH operand from 0 to 255, not reduced mod 256 (30_encoding R73), and no
line operation (30_encoding R71). -/
def HostLine.wellFormed : HostLine → Bool
  | .push n => decide (n.value ≤ 255)
  | .clear => true
  | .word _ => true
  | .reset => true
  | .wait _ => true
  | .lineOp _ => false

end Sys2Proof
end

