-- ==== Sys2Proof/Decode.lean ====
section
/-! DEFINITION. Decoding of CMD16 words and LINEOP3 codes, total, rejecting by reason (30_encoding R60 to R71, 60_exceptions
R118), and the encoder. -/
namespace Sys2Proof

/-- `c[15:8]` (30_encoding R61, R62). -/
def cmdImm8 (c : CmdWord) : Byte := c.extractLsb' 8 8

/-- `c[7:4]`, reserved (30_encoding R61). -/
def cmdRsv (c : CmdWord) : BitVec 4 := c.extractLsb' 4 4

/-- `c[3:0]`, the command code (30_encoding R61). -/
def cmdOp (c : CmdWord) : BitVec 4 := c.extractLsb' 0 4

/-- The command decoder: 30_encoding R63 to R65, with the priority of 60_exceptions R118. -/
def decodeCmd (c : CmdWord) : Except RefuseReason Instr :=
  if cmdRsv c ≠ 0x0#4 then .error (.rsvBits c)
  else if cmdOp c = 0x1#4 then .ok (.push (cmdImm8 c))
  else if cmdOp c = 0x2#4 then
    if cmdImm8 c = 0x00#8 then .ok .clear else .error (.clearImm c)
  else .error (.rsvOp c)

/-- `o[2:1]`, which line (30_encoding R67). -/
def lineField (o : LineCode) : BitVec 2 := o.extractLsb' 1 2

/-- `o[0]`, the level to write (30_encoding R67). -/
def lvlField (o : LineCode) : Level := o.getLsbD 0

/-- The line driver's decoder (30_encoding R67 to R70). -/
def decodeLineOp (o : LineCode) : Except RefuseReason Instr :=
  if lineField o = 0#2 then .ok (if lvlField o then .dataHigh else .dataLow)
  else if lineField o = 1#2 then .ok (if lvlField o then .sclkHigh else .sclkLow)
  else if lineField o = 2#2 then .ok (if lvlField o then .latchHigh else .latchLow)
  else if lvlField o then .error (.rsvLineop o) else .ok .init

/-- Decoding of a word on the bus it stands on (30_encoding R60). -/
def decode : BusWord → Except RefuseReason Instr
  | .cmd16 c => decodeCmd c
  | .lineop3 o => decodeLineOp o

/-- The command word of `PUSH v`: the concatenation of `v`, 0x0 and 0x1 (30_encoding R64). -/
def pushWord (v : Byte) : CmdWord := v ++ 0x0#4 ++ 0x1#4

/-- The command word of `CLEAR` (30_encoding R64). -/
def clearWord : CmdWord := 0x0002#16

/-- The encoder (30_encoding R64, R69). -/
def encode : Instr → BusWord
  | .push v => .cmd16 (pushWord v)
  | .clear => .cmd16 clearWord
  | .dataLow => .lineop3 0b000#3
  | .dataHigh => .lineop3 0b001#3
  | .sclkLow => .lineop3 0b010#3
  | .sclkHigh => .lineop3 0b011#3
  | .latchLow => .lineop3 0b100#3
  | .latchHigh => .lineop3 0b101#3
  | .init => .lineop3 0b110#3

/-- The bus word that the opcode table's bits `w` are: a 16-bit row is a CMD16 word, a row of 3 bits (a byte with its upper
bits 0) a LINEOP3 code. None where the bits do not fit the format. -/
def tableBusWord (nbits w : Nat) : Option BusWord :=
  if nbits = 16 then (if w < 65536 then some (.cmd16 (BitVec.ofNat 16 w)) else none)
  else if nbits = 8 ∨ nbits = 3 then (if w < 8 then some (.lineop3 (BitVec.ofNat 3 w)) else none)
  else none

/-- The instruction the decoder reads from the table's bits `w`; none where it refuses. -/
def decodeTableWord (nbits w : Nat) : Option Instr :=
  match tableBusWord nbits w with
  | some b => (decode b).toOption
  | none => none

end Sys2Proof
end

