-- ==== Sys2Proof/Config.lean ====
section
/-! DEFINITION. The implementation parameters of 00_scope R6: the source's values, and as opaque constants the ones it
leaves OPEN. Nothing can be proved of an opaque constant's value, so a claim holds for every value of it. -/
namespace Sys2Proof.Config

/-- `WIDTH`: bits in one transmitted value, and `SR_WIDTH`: stages of the attached register. -/
def width : Nat := 8

/-- `MSB_MASK`. -/
def msbMask : Byte := 0b10000000#8

/-- `IDLE_LEVEL`: 0 on every line. -/
def idleLevel : Level := false

/-- `PARK_DATA_LOW`: true (92_eei_decisions D8, 90_conflicts C1; log entry 11). The machine's `stepWith` takes it as an
argument, so that claims can be made of both readings; `step` uses this value. -/
def parkDataLow : Bool := true

/-- `DELAY_MS`, of the reference host program only. -/
def delayMs : Nat := 1000

/-- `COUNT_END`, exclusive, of the reference host program only. -/
def countEnd : Nat := 255

/-- OPEN: how many bits of the output port register belong to neither the engine nor the line driver
(`PORT_W - 3`, 10_state R26). DESIGN CHOICE of form, safe: log entry 10. -/
opaque portRestW : Nat

/-- `PORT_W`, OPEN, at least 3. -/
def portW : Nat := portRestW + 3

/-- OPEN: which bit of the port each of the three lines and the other bits is. A permutation, so that the pins are distinct
whatever it is, and every choice of three distinct pins is one (DESIGN CHOICE of form, safe: log entry 10). -/
opaque pinMap : Equiv.Perm (Fin (portRestW + 3))

/-- `PIN_DATA`, `PIN_SCLK`, `PIN_LATCH`: the port bit of a line (10_state R26). -/
def pin : Line → Fin portW
  | .data  => pinMap ⟨0, by omega⟩
  | .sclk  => pinMap ⟨1, by omega⟩
  | .latch => pinMap ⟨2, by omega⟩

/-- `T_SU`, OPEN: the least time Data is stable before a ShiftClock rising edge (70_reset_and_hazards R135). Read by the
timing premises of Sys2Proof/Safety.lean only: log entry 15. -/
opaque tSu : Nat

/-- `T_W`, OPEN: the least high time of a ShiftClock or Latch pulse (70_reset_and_hazards R136). -/
opaque tW : Nat

end Sys2Proof.Config
end

