-- ==== Sys2Proof/Machine/State.lean ====
section
/-! DEFINITION. The state of 10_state R17 as plain data, the host's moves, the faults and refusals, and the state after the
reset sequence. -/
namespace Sys2Proof.Machine

/-- The sequencer phases of 10_state R20, in the order of their codes 0 to 7. -/
inductive Phase where
  | idle
  | data
  | sclkH
  | sclkL
  | latchH
  | latchL
  | park
  /-- Code 7, never entered (41_shift_engine R93). -/
  | reserved
  deriving DecidableEq, Repr

/-- The direction of a line (10_state R25): `IN` = 0, `OUT` = 1. -/
inductive Dir where
  | input
  | output
  deriving DecidableEq, Repr

/-- The draws of a power-up: each any value, under no law (10_state R31, 93_implementation_defined I1 to I3). `portRest` is
the port's other bits, of which the spec says nothing (log entry 3). -/
structure Draws where
  w        : Byte
  k        : BitCount
  phase    : Phase
  level    : PerLine Level
  srStore  : Byte
  srOut    : Byte
  portRest : BitVec Config.portRestW
  deriving DecidableEq, Repr

/-- What the outside world does next (42_host_interface R105, R106, R109; 70_reset_and_hazards R128, R129, R138). DESIGN
CHOICE: log entries 4 and 13. -/
inductive Input where
  /-- The host's next move offers a command word. It holds until `ready` = 1 (42_host_interface R106). -/
  | command (c : CmdWord)
  /-- `rst` is asserted in this step (70_reset_and_hazards R129, R131). -/
  | reset
  /-- `WAIT ms` (42_host_interface R109): a host step labelled with its duration. -/
  | wait (ms : Nat)
  /-- The outside world does nothing for one step. It says when a later `rst` comes. -/
  | hold
  /-- Power is lost and comes back, with these draws (70_reset_and_hazards R128; log entry 12). -/
  | powerCycle (d : Draws)
  deriving DecidableEq, Repr

/-- The whole state: 10_state R17, the port's other bits (10_state R26), the record of a refusal (60_exceptions R117), and the
model's list of inputs still to come. `ready`, `refused` and the port's three line bits are computed from these
(Machine/Flags.lean, Machine/Operands.lean). -/
structure State where
  /-- `W`, the working value (R18). -/
  w        : Byte
  /-- `K`, the bit counter (R19). -/
  k        : BitCount
  /-- `phase` (R20). -/
  phase    : Phase
  /-- `init_done` (R21). -/
  initDone : Bool
  /-- `level[l]` (R25), and with it the port bit `PORT[PIN_l]` (R26; log entry 9). -/
  level    : PerLine Level
  /-- `dir[l]` (R25). -/
  dir      : PerLine Dir
  /-- The other `PORT_W - 3` bits of the port register (R26). -/
  portRest : BitVec Config.portRestW
  /-- `SR.store` (R27). -/
  srStore  : Byte
  /-- `SR.out` (R27). -/
  srOut    : Byte
  /-- The mark `refused` (R28) with the reason and information recorded (60_exceptions R117); log entry 8. -/
  refusal  : Option RefuseReason
  /-- The model's own field: what the outside world does next, first one first (log entry 4). -/
  inputs   : List Input
  deriving DecidableEq, Repr

/-- Why the machine stops with a fault. -/
inductive Fault where
  /-- Raised by the meanings of PUSH and CLEAR in a state with `ready` = 0: a host that offers a command there is stuck
  (93_implementation_defined I12). `step` never raises it, because its host holds (42_host_interface R106). Safe: the model
  stops where the spec has no run. -/
  | commandWhileNotReady
  deriving DecidableEq, Repr

/-- Why the machine answers no next state. -/
inductive Refusal where
  /-- An instruction with no meaning yet. No arm raises it: every instruction has its meaning. -/
  | notModelled (mnemonic : String)
  /-- Raised by `step` where `refused` = 1 and `rst` is not asserted: after a refused word neither the engine nor the host
  has a step (60_exceptions R117). The reason recorded is the argument. Safe: the model claims nothing more. -/
  | afterRefuse (r : RefuseReason)
  deriving DecidableEq, Repr

/-- What a step or a meaning answers. -/
abbrev Result := Host.Outcome State Fault Refusal

/-- The state after the reset sequence at power-up (70_reset_and_hazards R129, R130; 10_state R31). The spec gives `srStore`
and `srOut` as draws and says nothing of `portRest`: 0 is the model's choice (DESIGN CHOICE, unsafe: log entries 2 and 3).
`inputs` is empty: log entry 4. -/
def State.reset : State where
  w        := 0x00#8
  k        := 0#4
  phase    := .idle
  initDone := true
  level    := ⟨false, false, false⟩
  dir      := ⟨.output, .output, .output⟩
  portRest := 0#Config.portRestW
  srStore  := 0x00#8
  srOut    := 0x00#8
  refusal  := none
  inputs   := []

end Sys2Proof.Machine
end

