-- ==== Sys2Proof/Machine/Flags.lean ====
section
/-! DEFINITION. The block has no flags (10_state R23). Its one status signal `ready`, the mark `refused`, and the host's
signals of 42_host_interface R105, computed from the state. -/
namespace Sys2Proof.Machine

/-- `refused` (10_state R28). -/
def State.refused (s : State) : Bool := s.refusal.isSome

/-- `ready = init_done & (phase == IDLE) & ~refused` (10_state R24). -/
def State.ready (s : State) : Bool := s.initDone && decide (s.phase = .idle) && !s.refused

/-- `rst` in this step (42_host_interface R105). -/
def State.rstAsserted (s : State) : Bool :=
  match s.inputs with
  | .reset :: _ => true
  | _ => false

/-- `cmd` where `cmd_valid` = 1 in this step, none where it is 0. The host offers a command only where `ready` = 1
(42_host_interface R105, R106). -/
def State.cmdOffered (s : State) : Option CmdWord :=
  match s.inputs with
  | .command c :: _ => if s.ready then some c else none
  | _ => none

end Sys2Proof.Machine
end

