-- ==== Sys2Proof/Machine/Operands.lean ====
section
/-! DEFINITION. Reading and writing a named line, the tested bit of the working value, the phase codes, and the views of the
port register and of the output pins. -/
namespace Sys2Proof

/-- The entry of a line: `level[l]`, `dir[l]`. -/
def PerLine.get {α : Type} (p : PerLine α) : Line → α
  | .data => p.data
  | .sclk => p.sclk
  | .latch => p.latch

/-- Replace the entry of a line. -/
def PerLine.set {α : Type} (p : PerLine α) (l : Line) (a : α) : PerLine α :=
  match l with
  | .data => { p with data := a }
  | .sclk => { p with sclk := a }
  | .latch => { p with latch := a }

/-- The same entry on every line. -/
def PerLine.all {α : Type} (a : α) : PerLine α := ⟨a, a, a⟩

namespace Machine

/-- `W[7]`, as the test against the mask (41_shift_engine R87, R100). -/
def msbSet (w : Byte) : Level := decide (w &&& Config.msbMask ≠ 0x00#8)

/-- The working value shifted left one position, the bit leaving position 7 dropped (41_shift_engine R89, R100). -/
def shiftLeft (w : Byte) : Byte := w <<< 1

/-- The 3-bit code of a phase (10_state R20). -/
def Phase.code : Phase → BitVec 3
  | .idle => 0#3
  | .data => 1#3
  | .sclkH => 2#3
  | .sclkL => 3#3
  | .latchH => 4#3
  | .latchL => 5#3
  | .park => 6#3
  | .reserved => 7#3

/-- Bit `p` of the output port register. The lines are its bits `PIN_l`; the others are `portRest` (10_state R26). -/
def State.portBit (s : State) (p : Fin Config.portW) : Bool :=
  match (Config.pinMap.symm p).val with
  | 0 => s.level.data
  | 1 => s.level.sclk
  | 2 => s.level.latch
  | n + 3 => s.portRest.getLsbD n

/-- Output pin `Q[i]` of the attached register shows `SR.out[i]` (10_state R27). -/
def State.q (s : State) (i : Fin 8) : Bool := s.srOut.getLsbD i.val

end Machine
end Sys2Proof
end

