-- ==== Sys2Proof/Machine/Ops.lean ====
section
/-! DEFINITION. The primitives of 00_scope R8: raising a refusal, the line write with the attached register's reaction,
initialization, and the loading of a command. -/
namespace Sys2Proof

/-- The code of a refusal reason (60_exceptions R116). -/
def RefuseReason.code : RefuseReason → Nat
  | .rsvOp _ => 1
  | .rsvBits _ => 2
  | .clearImm _ => 3
  | .rsvLineop _ => 4
  | .lineNotOutput _ => 5
  | .badPhase _ => 6

namespace Machine

/-- Set `refused` and record the reason with its information; nothing else changes (60_exceptions R117). -/
def State.markRefused (s : State) (r : RefuseReason) : State := { s with refusal := some r }

/-- `raise Refuse(reason)`: the block's one exceptional outcome. It is a next state, with the mark set and nothing else
written (60_exceptions R117; log entry 7). There is no return from it (60_exceptions R120). -/
def raiseRefuse (r : RefuseReason) (s : State) : Result := .next (s.markRefused r)

/-- `level[l] <- b`, and with it `PORT[PIN_l] <- b` (20_memory R41). -/
def State.setLevel (s : State) (l : Line) (b : Level) : State := { s with level := s.level.set l b }

/-- A rising edge: a write of 1 to a line at level 0 (20_memory R42). -/
def risingEdge (old b : Level) : Bool := !old && b

/-- `SR_Shift()` (20_memory R43). -/
def State.srShift (s : State) : State :=
  { s with srStore := (s.srStore <<< 1) ||| (BitVec.ofBool s.level.data).setWidth 8 }

/-- `SR_Latch()` (20_memory R44). -/
def State.srLatch (s : State) : State := { s with srOut := s.srStore }

/-- The attached register's reaction to a write of `b` to line `l`, which was at `old` (20_memory R43 to R45). -/
def State.srReact (s : State) (l : Line) (old b : Level) : State :=
  match l with
  | .data => s
  | .sclk => if risingEdge old b then s.srShift else s
  | .latch => if risingEdge old b then s.srLatch else s

/-- `LineWrite(l, b)` (20_memory R41). -/
def lineWrite (l : Line) (b : Level) (s : State) : Result :=
  if s.dir.get l = .output then .next ((s.setLevel l b).srReact l (s.level.get l) b)
  else raiseRefuse (.lineNotOutput l) s

/-- The effect of INIT on every line and on `init_done`, in one step. It writes only low levels, so it makes no rising edge and
the attached register does not react (40_line_driver R82). -/
def State.initLines (s : State) : State :=
  { s with dir := .all .output, level := .all Config.idleLevel, initDone := true }

/-- Write the engine's three registers. -/
def State.setEngine (s : State) (w : Byte) (k : BitCount) (phase : Phase) : State :=
  { s with w := w, k := k, phase := phase }

/-- The inputs that are still to come. -/
def State.setInputs (s : State) (l : List Input) : State := { s with inputs := l }

/-- The accept step of a command that pushes `v`: no line is written (41_shift_engine R85, R86). Its precondition is `ready` =
1; a command that reaches the engine without it is stuck (42_host_interface R106, 93_implementation_defined I12). -/
def acceptPush (v : Byte) (s : State) : Result :=
  if s.ready then .next (s.setEngine v 0#4 .data) else .fault .commandWhileNotReady

end Machine
end Sys2Proof
end

