-- ==== Sys2Proof/Machine/Commands.lean ====
section
/-! DEFINITION. The meanings of the engine's two commands: their accept steps (41_shift_engine R85, R86). The line writes that
follow are the sequencer's (Machine/Sequencer.lean). -/
namespace Sys2Proof.Machine

/-- `PUSH imm8` (41_shift_engine R85). -/
def execPush (imm8 : Byte) (s : State) : Result := acceptPush imm8 s

/-- `CLEAR` (41_shift_engine R86). -/
def execClear (s : State) : Result := acceptPush 0x00#8 s

end Sys2Proof.Machine
end

