-- ==== Sys2Proof/Machine/LineDriver.lean ====
section
/-! DEFINITION. The meanings of the line driver's seven operations (40_line_driver R75 to R82). -/
namespace Sys2Proof.Machine

/-- `DATA_LOW` (40_line_driver R76). -/
def execDataLow (s : State) : Result := lineWrite .data false s

/-- `DATA_HIGH` (40_line_driver R77). -/
def execDataHigh (s : State) : Result := lineWrite .data true s

/-- `SCLK_LOW` (40_line_driver R78). -/
def execSclkLow (s : State) : Result := lineWrite .sclk false s

/-- `SCLK_HIGH` (40_line_driver R79). -/
def execSclkHigh (s : State) : Result := lineWrite .sclk true s

/-- `LATCH_LOW` (40_line_driver R80). -/
def execLatchLow (s : State) : Result := lineWrite .latch false s

/-- `LATCH_HIGH` (40_line_driver R81). -/
def execLatchHigh (s : State) : Result := lineWrite .latch true s

/-- `INIT`, legal in any state (40_line_driver R82). -/
def execInit (s : State) : Result := .next s.initLines

end Sys2Proof.Machine
end

