-- ==== Sys2Proof/Machine/Dispatch.lean ====
section
/-! DEFINITION. The meaning of every instruction: one arm per constructor of Instr. -/
namespace Sys2Proof.Machine

def exec (i : Instr) (s : State) : Host.Outcome State Fault Refusal :=
  match i with
  | .push imm8 => Sys2Proof.Machine.execPush imm8 s
  | .clear => Sys2Proof.Machine.execClear s
  | .dataLow => Sys2Proof.Machine.execDataLow s
  | .dataHigh => Sys2Proof.Machine.execDataHigh s
  | .sclkLow => Sys2Proof.Machine.execSclkLow s
  | .sclkHigh => Sys2Proof.Machine.execSclkHigh s
  | .latchLow => Sys2Proof.Machine.execLatchLow s
  | .latchHigh => Sys2Proof.Machine.execLatchHigh s
  | .init => Sys2Proof.Machine.execInit s

end Sys2Proof.Machine
end

