-- ==== Sys2Proof/Machine/Sequencer.lean ====
section
/-! DEFINITION. The sequencer: which line operation each phase gives the line driver (10_state R20), and what the engine does
with its own registers after it (41_shift_engine R87 to R93). -/
namespace Sys2Proof.Machine

/-- The LINEOP3 code that the engine's next step gives the line driver; none in IDLE and in the reserved phase (10_state R20,
41_shift_engine R87 to R93). -/
def phaseCode (s : State) : Option LineCode :=
  match s.phase with
  | .idle => none
  | .data => if msbSet s.w then some 0b001#3 else some 0b000#3
  | .sclkH => some 0b011#3
  | .sclkL => some 0b010#3
  | .latchH => some 0b101#3
  | .latchL => some 0b100#3
  | .park => some 0b000#3
  | .reserved => none

/-- The line driver, given a code: it performs the operation, or refuses the reserved code (40_line_driver R75 to R83). -/
def lineDriver (o : LineCode) (s : State) : Result :=
  match decodeLineOp o with
  | .ok i => exec i s
  | .error r => raiseRefuse r s

/-- What a phase does with the engine's registers after its line write (41_shift_engine R87 to R92). `park` is
`PARK_DATA_LOW`. -/
def advance (park : Bool) (s : State) : State :=
  match s.phase with
  | .idle => s
  | .data => s.setEngine s.w s.k .sclkH
  | .sclkH => s.setEngine s.w s.k .sclkL
  | .sclkL =>
    s.setEngine (shiftLeft s.w) (s.k + 1#4)
      (if s.k + 1#4 = BitVec.ofNat 4 Config.width then .latchH else .data)
  | .latchH => s.setEngine s.w s.k .latchL
  | .latchL => s.setEngine s.w s.k (if park then .park else .idle)
  | .park => s.setEngine s.w s.k .idle
  | .reserved => s

/-- A phase rule: its line write, then the engine's registers. A refused write changes no engine register
(60_exceptions R117). -/
def phaseWrite (park : Bool) (o : LineCode) (s : State) : Result :=
  match lineDriver o s with
  | .next t => if t.refused then .next t else .next (advance park t)
  | .fault f => .fault f
  | .refused r => .refused r

/-- The engine's step in a phase other than IDLE (41_shift_engine R84 case (a), R87 to R93). In IDLE it has none. -/
def engineStep (park : Bool) (s : State) : Result :=
  match phaseCode s with
  | some o => phaseWrite park o s
  | none => if s.phase = .idle then .next s else raiseRefuse (.badPhase s.phase.code) s

end Sys2Proof.Machine
end

