-- ==== Sys2Proof/Machine/HostPort.lean ====
section
/-! DEFINITION. The host's side of the block: the offered command, the reset sequence, power-up, and which agent moves next
(41_shift_engine R84, 42_host_interface R105 to R109, 70_reset_and_hazards R128 to R132). -/
namespace Sys2Proof.Machine

/-- The engine meets an offered command word in IDLE: it accepts the command, or refuses the word (41_shift_engine R84 case
(b), 60_exceptions R116). -/
def offerWord (c : CmdWord) (s : State) : Result :=
  match decodeCmd c with
  | .ok i => exec i s
  | .error r => raiseRefuse r s

/-- The reset sequence: the line driver runs INIT, then `W`, `K` and `phase` are written, in one step. `SR.store`, `SR.out`
and `refused` are kept (70_reset_and_hazards R129, R132). -/
def resetSequence (s : State) : Result :=
  match lineDriver 0b110#3 s with
  | .next t => .next (t.setEngine 0x00#8 0#4 .idle)
  | .fault f => .fault f
  | .refused r => .refused r

/-- The power-up state: directions IN, `init_done` and `refused` 0, all else drawn (70_reset_and_hazards R128, 10_state
R31). -/
def powerUp (d : Draws) (inputs : List Input) : State where
  w        := d.w
  k        := d.k
  phase    := d.phase
  initDone := false
  level    := d.level
  dir      := .all .input
  portRest := d.portRest
  srStore  := d.srStore
  srOut    := d.srOut
  refusal  := none
  inputs   := inputs

/-- Power is lost and comes back. The mark `refused` is the model's, and never cleared (10_state R28): log entry 12. -/
def powerCycle (d : Draws) (s : State) : State := { powerUp d s.inputs with refusal := s.refusal }

/-- The host's step where `ready` = 1. With no move to make it holds, and nothing changes (41_shift_engine R84). WAIT changes
nothing but that it has passed (42_host_interface R109). -/
def hostTurn (s : State) : Result :=
  match s.inputs with
  | .command c :: rest => offerWord c (s.setInputs rest)
  | .wait _ :: rest => .next (s.setInputs rest)
  | .hold :: rest => .next (s.setInputs rest)
  | _ => .next s

/-- A step passes in which the outside world was to do nothing. -/
def State.passHold (s : State) : State :=
  match s.inputs with
  | .hold :: rest => s.setInputs rest
  | _ => s

/-- After a refusal no agent has a step, but time may pass until an `rst` (60_exceptions R117, log entry 7). -/
def refusedTurn (r : RefuseReason) (s : State) : Result :=
  match s.inputs with
  | .hold :: rest => .next (s.setInputs rest)
  | _ => .refused (.afterRefuse r)

/-- The step of the agent whose turn it is where no `rst` and no power loss comes: the power-up reset sequence where it is due
(70_reset_and_hazards R128, R129); nothing after a refusal; else the host in IDLE and the engine in a push
(41_shift_engine R84). -/
def agentStep (park : Bool) (s : State) : Result :=
  if s.initDone then
    match s.refusal with
    | some r => refusedTurn r s
    | none => if s.phase = .idle then hostTurn s else engineStep park s.passHold
  else resetSequence s

/-- One step of the system, with `PARK_DATA_LOW` = `park`. An asserted `rst` replaces whatever step was due
(70_reset_and_hazards R131). -/
def stepWith (park : Bool) (s : State) : Result :=
  match s.inputs with
  | .reset :: rest => resetSequence (s.setInputs rest)
  | .powerCycle d :: rest => .next (powerCycle d (s.setInputs rest))
  | _ => agentStep park s

end Sys2Proof.Machine
end

