-- ==== Sys2Proof/Machine/Fetch.lean ====
section
/-! DEFINITION. Placing one instruction so that the very next step runs it (log entries 1 and 17). The block fetches nothing
(10_state R22): a command word comes from the host, INIT from the reset sequence, a line write from the phase that issues it
(30_encoding R71). -/
namespace Sys2Proof.Machine

/-- Make the engine able to step, in a given phase, and the outside world pass that step. -/
def State.poise (s : State) (w : Byte) (phase : Phase) : State :=
  { s with w := w, phase := phase, initDone := true, refusal := none, inputs := .hold :: s.inputs }

/-- The host offers `c` next, and the engine is ready for it. -/
def placeCommand (s : State) (c : CmdWord) : State :=
  { s with phase := .idle, initDone := true, refusal := none, inputs := .command c :: s.inputs }

/-- The agent that issues the line operation `i` issues it next. Commands are not line operations: nothing changes. -/
def placeLineOp (s : State) (i : Instr) : State :=
  match i with
  | .dataLow => s.poise (s.w &&& ~~~ Config.msbMask) .data
  | .dataHigh => s.poise (s.w ||| Config.msbMask) .data
  | .sclkLow => s.poise s.w .sclkL
  | .sclkHigh => s.poise s.w .sclkH
  | .latchLow => s.poise s.w .latchL
  | .latchHigh => s.poise s.w .latchH
  | .init => s.setInputs (.reset :: s.inputs)
  | .push _ => s
  | .clear => s

/-- Place the instruction whose table bits are `w`. The reserved LINEOP3 code is issued by no agent (30_encoding R70), and
bits that fit no format are no instruction: nothing changes. -/
def placeTableWord (s : State) (nbits w : Nat) : State :=
  match tableBusWord nbits w with
  | some (.cmd16 c) => placeCommand s c
  | some (.lineop3 o) =>
    match decodeLineOp o with
    | .ok i => placeLineOp s i
    | .error _ => s
  | none => s

end Sys2Proof.Machine
end

