-- ==== Sys2Proof/Machine/Assembler.lean ====
section
/-! DEFINITION. The assembler of 30_encoding R73 and the pseudo-instructions of R74. -/
namespace Sys2Proof.Machine

/-! The text of a listing line, as a list of characters: words apart by spaces, a comment from `;` on (30_encoding R73). That a
hexadecimal digit may be in either case is the model's (log entry 18). -/

/-- The words of a text; `w` holds the letters of the word being read, last first. -/
def wordsFrom (w : List Char) : List Char → List (List Char)
  | [] => if w = [] then [] else [w.reverse]
  | c :: cs =>
    if c = ' ' then (if w = [] then wordsFrom [] cs else w.reverse :: wordsFrom [] cs) else wordsFrom (c :: w) cs

/-- The words of a line before its comment. -/
def lineWords (cs : List Char) : List (List Char) := wordsFrom [] (cs.takeWhile (fun c => c ≠ ';'))

/-- The value of a digit, whatever the base. -/
def digitValue (c : Char) : Option Nat :=
  if '0' ≤ c ∧ c ≤ '9' then some (c.toNat - '0'.toNat)
  else if 'a' ≤ c ∧ c ≤ 'f' then some (c.toNat - 'a'.toNat + 10)
  else if 'A' ≤ c ∧ c ≤ 'F' then some (c.toNat - 'A'.toNat + 10)
  else none

/-- The digits of a word in a base; none where a letter is no digit of it. -/
def readDigits (b : Nat) : List Char → Option (List (Fin b))
  | [] => some []
  | c :: cs =>
    match digitValue c, readDigits b cs with
    | some d, some ds => if h : d < b then some (⟨d, h⟩ :: ds) else none
    | _, _ => none

/-- A number in decimal, `0x` hexadecimal or `0b` binary (30_encoding R73). -/
def readNumeral (cs : List Char) : Option Numeral :=
  match cs with
  | [] => none
  | '0' :: 'x' :: d :: ds => (readDigits 16 (d :: ds)).map .hex
  | '0' :: 'b' :: d :: ds => (readDigits 2 (d :: ds)).map .bin
  | _ => (readDigits 10 cs).map .dec

/-- The line operation a mnemonic names (30_encoding R69). -/
def readLineOp (m : List Char) : Option LineCode :=
  if m = ['D', 'A', 'T', 'A', '_', 'L', 'O', 'W'] then some 0b000#3
  else if m = ['D', 'A', 'T', 'A', '_', 'H', 'I', 'G', 'H'] then some 0b001#3
  else if m = ['S', 'C', 'L', 'K', '_', 'L', 'O', 'W'] then some 0b010#3
  else if m = ['S', 'C', 'L', 'K', '_', 'H', 'I', 'G', 'H'] then some 0b011#3
  else if m = ['L', 'A', 'T', 'C', 'H', '_', 'L', 'O', 'W'] then some 0b100#3
  else if m = ['L', 'A', 'T', 'C', 'H', '_', 'H', 'I', 'G', 'H'] then some 0b101#3
  else if m = ['I', 'N', 'I', 'T'] then some 0b110#3
  else none

/-- A raw command word of at most 16 bits, written in hexadecimal. -/
def readWord (cs : List Char) : Option HostLine :=
  match readNumeral cs with
  | some (.hex ds) => let v := (Numeral.hex ds).value; if v < 65536 then some (.word (BitVec.ofNat 16 v)) else none
  | _ => none

/-- A line of a listing: no line where it is blank or a comment, one where it is a line of 30_encoding R73 or the WAIT of R74,
and none (a failure) where it is neither. -/
def readLine (cs : List Char) : Option (List HostLine) :=
  match lineWords cs with
  | [] => some []
  | [m] =>
    if m = ['C', 'L', 'E', 'A', 'R'] then some [.clear]
    else if m = ['R', 'E', 'S', 'E', 'T'] then some [.reset]
    else (readLineOp m).map fun o => [.lineOp o]
  | [m, n] =>
    if m = ['P', 'U', 'S', 'H'] then (readNumeral n).map fun k => [.push k]
    else if m = ['W', 'A', 'I', 'T'] then (readNumeral n).map fun k => [.wait k.value]
    else if m = ['.', 'w', 'o', 'r', 'd'] then (readWord n).map fun ln => [ln]
    else none
  | _ => none

/-- What a line of a host program makes the host do, or none where the assembler rejects it (30_encoding R73). -/
def assemble (ln : HostLine) : Option Input :=
  if ln.wellFormed then
    match ln with
    | .push n => some (.command (pushWord (BitVec.ofNat 8 n.value)))
    | .clear => some (.command clearWord)
    | .word c => some (.command c)
    | .reset => some .reset
    | .wait ms => some (.wait ms)
    | .lineOp _ => none
  else none

/-- An assembler that emits `PUSH 0` for `CLEAR`, as 30_encoding R74 allows one to. -/
def assembleClearAsPush (ln : HostLine) : Option Input :=
  match ln with
  | .clear => some (.command (pushWord 0x00#8))
  | _ => assemble ln

/-- A whole listing; none where a line of it is rejected. -/
def assembleProgram : List HostLine → Option (List Input)
  | [] => some []
  | ln :: rest =>
    match assemble ln, assembleProgram rest with
    | some i, some is => some (i :: is)
    | _, _ => none

/-- `PULSE SCLK` (30_encoding R74). -/
def pulseSclk : List Instr := [.sclkHigh, .sclkLow]

/-- `PULSE LATCH` (30_encoding R74). -/
def pulseLatch : List Instr := [.latchHigh, .latchLow]

/-- `SEND b` (30_encoding R74). -/
def send (b : Level) : List Instr := (if b then .dataHigh else .dataLow) :: pulseSclk

end Sys2Proof.Machine
end

