-- ==== Sys2Proof/Machine/Trace.lean ====
section
/-! DEFINITION. Runs of several steps, and the trace of the line operations they issue (41_shift_engine R94). -/
namespace Sys2Proof.Machine

/-- `n` steps, stopping at the first that answers no next state. -/
def runWith (park : Bool) : Nat → State → Result
  | 0, s => .next s
  | n + 1, s =>
    match stepWith park s with
    | .next t => runWith park n t
    | .fault f => .fault f
    | .refused r => .refused r

/-- The line operation that the next step issues: INIT in a reset sequence, the phase's code in an engine step, else none
(30_encoding R71). At most one (00_scope R9). -/
def issued (s : State) : Option LineCode :=
  match s.inputs with
  | .reset :: _ => some 0b110#3
  | .powerCycle _ :: _ => none
  | _ => if s.initDone then (if s.refused then none else phaseCode s) else some 0b110#3

/-- The line operations issued in the next `n` steps, in order. -/
def traceWith (park : Bool) : Nat → State → List LineCode
  | 0, _ => []
  | n + 1, s =>
    (issued s).toList ++
      match stepWith park s with
      | .next t => traceWith park n t
      | .fault _ => []
      | .refused _ => []

/-- The line operations of bit `i` of `v`: the Data write, then the ShiftClock pulse (41_shift_engine R94; `SEND` of
30_encoding R74). -/
def bitTrace (v : Byte) (i : Nat) : List LineCode :=
  [if v.getLsbD i then 0b001#3 else 0b000#3, 0b011#3, 0b010#3]

/-- The line-write trace of one push of `v` (41_shift_engine R94, R103). -/
def pushTrace (park : Bool) (v : Byte) : List LineCode :=
  [7, 6, 5, 4, 3, 2, 1, 0].flatMap (bitTrace v) ++ [0b101#3, 0b100#3] ++ (if park then [0b000#3] else [])

/-- The engine steps of a push after its accept step: 26 line writes, and one with PARK (41_shift_engine R101, R103). -/
def pushWrites (park : Bool) : Nat := if park then 27 else 26

end Sys2Proof.Machine
end

