-- ==== Sys2Proof/Safety.lean ====
section
/-! DEFINITION. What counts as a safe run: the line-idle condition (10_state R30), the sequencer's invariant, a host that holds
during a push (42_host_interface R106), and the timing premises that claims about a chip need (70_reset_and_hazards R135,
R136). -/
namespace Sys2Proof.Machine

/-- Every line is an output (10_state R25, after initialization). -/
def State.linesOut (s : State) : Prop := s.dir = .all .output

/-- 10_state R30: ShiftClock and Latch low, and Data low where Data is parked; every line an output. -/
def State.linesIdle (park : Bool) (s : State) : Prop :=
  s.level.sclk = false ∧ s.level.latch = false ∧ (park = true → s.level.data = false) ∧ s.linesOut

/-- The bits of the pushed byte that the engine has sent have left `W`: its low `K` bits are 0 (41_shift_engine R100). -/
def State.sentBitsGone (s : State) : Prop := s.w.toNat % 2 ^ s.k.toNat = 0

/-- What holds of the engine, the lines and the attached register in each phase, on entry to its step (41_shift_engine R87 to
R92, R96). -/
def phaseInv (park : Bool) (s : State) : Prop :=
  match s.phase with
  | .idle => s.level.sclk = false ∧ s.level.latch = false ∧ (park = true → s.level.data = false) ∧
      s.w = 0x00#8 ∧ (s.k = 0#4 ∨ s.k = 8#4)
  | .data => s.level.sclk = false ∧ s.level.latch = false ∧ s.k < 8#4 ∧ s.sentBitsGone
  | .sclkH => s.level.sclk = false ∧ s.level.latch = false ∧ s.k < 8#4 ∧ s.sentBitsGone ∧ s.level.data = s.w.getLsbD 7
  | .sclkL => s.level.sclk = true ∧ s.level.latch = false ∧ s.k < 8#4 ∧ s.sentBitsGone ∧ s.level.data = s.w.getLsbD 7
  | .latchH => s.level.sclk = false ∧ s.level.latch = false ∧ s.k = 8#4 ∧ s.w = 0x00#8
  | .latchL => s.level.sclk = false ∧ s.level.latch = true ∧ s.k = 8#4 ∧ s.w = 0x00#8 ∧ s.srOut = s.srStore
  | .park => park = true ∧ s.level.sclk = false ∧ s.level.latch = false ∧ s.k = 8#4 ∧ s.w = 0x00#8 ∧ s.srOut = s.srStore
  | .reserved => False

/-- The invariant of the machine: once initialized, every line is an output and the phase's condition holds. It implies
10_state R30, and that no step meets the refusals 4 to 6 (60_exceptions R116). -/
def sequencerInv (park : Bool) (s : State) : Prop := s.initDone = true → s.linesOut ∧ phaseInv park s

/-- The outside world neither resets nor cuts the power in the next step. -/
def State.undisturbed (s : State) : Prop :=
  match s.inputs with
  | .reset :: _ => False
  | .powerCycle _ :: _ => False
  | _ => True

/-- The power is not lost in the next step. -/
def State.powered (s : State) : Prop :=
  match s.inputs with
  | .powerCycle _ :: _ => False
  | _ => True

/-- The outside world does nothing while a push runs: the host's next move, if it has one, waits for `ready`
(42_host_interface R106, R107). -/
def hostHolds : List Input → Prop
  | [] => True
  | .command _ :: _ => True
  | .wait _ :: _ => True
  | .reset :: _ => False
  | .hold :: _ => False
  | .powerCycle _ :: _ => False

/-- The host may offer a command: `ready` = 1, every line an output, ShiftClock and Latch low (10_state R30, which every
initialized IDLE state of a run meets). Data may be at any level. -/
def State.atRest (s : State) : Prop :=
  s.ready = true ∧ s.linesOut ∧ s.level.sclk = false ∧ s.level.latch = false

/-- The engine has a step: case (a) of 41_shift_engine R84, with no `rst` and no power loss in it. -/
def State.enginesTurn (s : State) : Prop :=
  s.undisturbed ∧ s.initDone = true ∧ s.refusal = none ∧ s.phase ≠ .idle

/-- A line operation at a time on a chip's clock. -/
structure TimedOp where
  time : Nat
  code : LineCode
  deriving DecidableEq, Repr

/-- 70_reset_and_hazards R135: every ShiftClock rise comes at least `tSu` after the last operation that wrote Data, at
`lastData` where there was one. INIT writes Data too (40_line_driver R82). A premise of a claim about a chip, at `Config.tSu`;
the model has no time (log entry 15). -/
def setupHeld (tSu : Nat) : Option Nat → List TimedOp → Bool
  | _, [] => true
  | lastData, x :: xs =>
    if x.code = 0b000#3 ∨ x.code = 0b001#3 ∨ x.code = 0b110#3 then setupHeld tSu (some x.time) xs
    else if x.code = 0b011#3 then
      (match lastData with
        | some t => decide (t + tSu ≤ x.time)
        | none => true) && setupHeld tSu lastData xs
    else setupHeld tSu lastData xs

/-- 70_reset_and_hazards R136: every pulse of the line whose high code is `hi` and low code `lo` stays high for at least `tW`;
`rose` is when it last rose, while it is high. A pulse ends where the line is lowered: by `lo`, or by INIT, which lowers every
line (40_line_driver R82), so a pulse that `rst` cuts must be long enough too. A premise of a claim about a chip, at
`Config.tW` (log entry 15). -/
def pulseHeld (hi lo : LineCode) (tW : Nat) : Option Nat → List TimedOp → Bool
  | _, [] => true
  | rose, x :: xs =>
    if x.code = hi then pulseHeld hi lo tW (rose.or (some x.time)) xs
    else if x.code = lo ∨ x.code = 0b110#3 then
      (match rose with
        | some t => decide (t + tW ≤ x.time)
        | none => true) && pulseHeld hi lo tW none xs
    else pulseHeld hi lo tW rose xs

/-- The timing premises of a claim about a chip (70_reset_and_hazards R135, R136). -/
def chipTiming (tr : List TimedOp) : Bool :=
  setupHeld Config.tSu none tr && pulseHeld 0b011#3 0b010#3 Config.tW none tr && pulseHeld 0b101#3 0b100#3 Config.tW none tr

end Sys2Proof.Machine
end

