-- ==== Sys2Proof/Certificates/Slice0/Obligations.lean ====
section
/-! DEFINITION. The statements for the provers, from the numbered rules of spec/. -/
open Sys2Proof Sys2Proof.Machine

/-! ## Encoding -/

/-- Each bus word has one meaning and each instruction one word: a word decodes to an instruction exactly when it is that
instruction's encoding (30_encoding R64, R66, R69). -/
def Obligations.DecodeInvertsEncode : Prop :=
  ∀ (b : BusWord) (i : Instr), decode b = .ok i ↔ b = encode i

/-- 30_encoding R66: the 257 command words with a meaning, and every other word refused. -/
def Obligations.CommandWordsWithMeaning : Prop :=
  (∀ c : CmdWord, (∃ i, decodeCmd c = .ok i) ↔
    ((∃ v : Byte, c = (v.setWidth 16 <<< 8) ||| 0x0001#16) ∨ c = 0x0002#16)) ∧
  (∃ ws : List CmdWord, ws.Nodup ∧ ws.length = 257 ∧ ∀ c, c ∈ ws ↔ ∃ i, decodeCmd c = .ok i) ∧
  (∀ c : CmdWord, (¬ ∃ i, decodeCmd c = .ok i) → ∃ r, decodeCmd c = .error r)

/-- 30_encoding R63 to R65 and 60_exceptions R118: what each command word decodes to, by its bits, and which reason is
reported where several hold. -/
def Obligations.CommandWordMap : Prop :=
  ∀ c : CmdWord,
    (c &&& 0x00F0#16 ≠ 0#16 → decodeCmd c = .error (.rsvBits c)) ∧
    (c &&& 0x00FF#16 = 0x0001#16 → decodeCmd c = .ok (.push ((c >>> 8).setWidth 8))) ∧
    (c = 0x0002#16 → decodeCmd c = .ok .clear) ∧
    (c &&& 0x00FF#16 = 0x0002#16 → c &&& 0xFF00#16 ≠ 0#16 → decodeCmd c = .error (.clearImm c)) ∧
    (c &&& 0x00F0#16 = 0#16 → c &&& 0x000F#16 ≠ 0x0001#16 → c &&& 0x000F#16 ≠ 0x0002#16 →
      decodeCmd c = .error (.rsvOp c))

/-- 30_encoding R69: the line operation map. -/
def Obligations.LineOperationMap : Prop :=
  decodeLineOp 0b000#3 = .ok .dataLow ∧ decodeLineOp 0b001#3 = .ok .dataHigh ∧
  decodeLineOp 0b010#3 = .ok .sclkLow ∧ decodeLineOp 0b011#3 = .ok .sclkHigh ∧
  decodeLineOp 0b100#3 = .ok .latchLow ∧ decodeLineOp 0b101#3 = .ok .latchHigh ∧
  decodeLineOp 0b110#3 = .ok .init ∧ decodeLineOp 0b111#3 = .error (.rsvLineop 0b111#3)

/-- Words of 95_test_vectors 2.1, one or more per format, decode as that table says. -/
def Obligations.WrittenWordsDecode : Prop :=
  decode (.cmd16 0b1010010100000001#16) = .ok (.push 0xA5#8) ∧
  decode (.cmd16 0b0000000000000010#16) = .ok .clear ∧
  decode (.cmd16 0b0000000100000010#16) = .error (.clearImm 0x0102#16) ∧
  decode (.cmd16 0b1111111111110010#16) = .error (.rsvBits 0xFFF2#16) ∧
  decode (.cmd16 0b0000000000000000#16) = .error (.rsvOp 0x0000#16) ∧
  decode (.lineop3 0b011#3) = .ok .sclkHigh ∧ decode (.lineop3 0b110#3) = .ok .init

/-- The assembler of 30_encoding R73 and R74: it rejects a PUSH operand above 255 and does not reduce it, `.word` is its raw word,
RESET asserts `rst` and WAIT is a wait of the host. Two clauses are the model's reading (log entry 18, DEDUCED): that it rejects
a line operation, of which R73 says only that it never appears in host programs; and that it emits 0x0002 for CLEAR, where R74
also allows PUSH 0. -/
def Obligations.AssemblerGivesWords : Prop :=
  (∀ n : Numeral, n.value ≤ 255 →
    ∃ c : CmdWord, assemble (.push n) = some (.command c) ∧ c.toNat = n.value * 256 + 1) ∧
  (∀ n : Numeral, 255 < n.value → assemble (.push n) = none) ∧
  (∀ o, assemble (.lineOp o) = none) ∧
  assemble .clear = some (.command 0x0002#16) ∧
  (∀ c, assemble (.word c) = some (.command c)) ∧
  assemble .reset = some .reset ∧
  (∀ ms, assemble (.wait ms) = some (.wait ms))

/-! ## The line driver -/

/-- 20_memory R41: a line write takes effect on one port bit and one level, with the attached register's reaction to a rising
edge in the same step; a line that is no output refuses it. -/
def Obligations.LineWriteEffect : Prop :=
  ∀ (l : Line) (b : Level) (s : State),
    (s.dir.get l ≠ .output → lineWrite l b s = .next { s with refusal := some (.lineNotOutput l) }) ∧
    (s.dir.get l = .output → ∃ t, lineWrite l b s = .next t ∧
      t.level.get l = b ∧ (∀ l', l' ≠ l → t.level.get l' = s.level.get l') ∧
      t.portBit (Config.pin l) = b ∧ (∀ p, p ≠ Config.pin l → t.portBit p = s.portBit p) ∧
      t.srStore = (if l = .sclk ∧ s.level.sclk = false ∧ b = true
        then BitVec.ofNat 8 (2 * s.srStore.toNat + s.level.data.toNat) else s.srStore) ∧
      t.srOut = (if l = .latch ∧ s.level.latch = false ∧ b = true then s.srStore else s.srOut) ∧
      t.w = s.w ∧ t.k = s.k ∧ t.phase = s.phase ∧ t.initDone = s.initDone ∧ t.dir = s.dir ∧
      t.portRest = s.portRest ∧ t.refusal = s.refusal ∧ t.inputs = s.inputs)

/-- 40_line_driver R76: DATA_LOW, its code, its effect and frame, its refusal, and when the engine issues it. -/
def Obligations.DataLowDrivesData : Prop :=
  decode (.lineop3 0b000#3) = .ok .dataLow ∧
  ∀ s : State,
    (s.dir.data = .output → exec .dataLow s = .next { s with level := { s.level with data := false } }) ∧
    (s.dir.data ≠ .output → exec .dataLow s = .next { s with refusal := some (.lineNotOutput .data) }) ∧
    (s.phase = .data → s.w.getLsbD 7 = false → phaseCode s = some 0b000#3) ∧
    (s.phase = .park → phaseCode s = some 0b000#3)

/-- 40_line_driver R77: DATA_HIGH. -/
def Obligations.DataHighDrivesData : Prop :=
  decode (.lineop3 0b001#3) = .ok .dataHigh ∧
  ∀ s : State,
    (s.dir.data = .output → exec .dataHigh s = .next { s with level := { s.level with data := true } }) ∧
    (s.dir.data ≠ .output → exec .dataHigh s = .next { s with refusal := some (.lineNotOutput .data) }) ∧
    (s.phase = .data → s.w.getLsbD 7 = true → phaseCode s = some 0b001#3)

/-- 40_line_driver R78: SCLK_LOW has no effect on the attached register. -/
def Obligations.SclkLowDropsClock : Prop :=
  decode (.lineop3 0b010#3) = .ok .sclkLow ∧
  ∀ s : State,
    (s.dir.sclk = .output → exec .sclkLow s = .next { s with level := { s.level with sclk := false } }) ∧
    (s.dir.sclk ≠ .output → exec .sclkLow s = .next { s with refusal := some (.lineNotOutput .sclk) })

/-- 40_line_driver R79: SCLK_HIGH shifts the Data level into the attached register on a rising edge, and only there; the engine
never issues it with ShiftClock high. -/
def Obligations.SclkHighShiftsData : Prop :=
  decode (.lineop3 0b011#3) = .ok .sclkHigh ∧
  ∀ s : State,
    (s.dir.sclk = .output → s.level.sclk = false → exec .sclkHigh s = .next
      { s with level := { s.level with sclk := true },
               srStore := BitVec.ofNat 8 (2 * s.srStore.toNat + s.level.data.toNat) }) ∧
    (s.dir.sclk = .output → s.level.sclk = true → exec .sclkHigh s = .next s) ∧
    (s.dir.sclk ≠ .output → exec .sclkHigh s = .next { s with refusal := some (.lineNotOutput .sclk) }) ∧
    (∀ park, sequencerInv park s → s.initDone = true → phaseCode s = some 0b011#3 → s.level.sclk = false)

/-- 40_line_driver R80: LATCH_LOW has no effect on the attached register. -/
def Obligations.LatchLowDropsLatch : Prop :=
  decode (.lineop3 0b100#3) = .ok .latchLow ∧
  ∀ s : State,
    (s.dir.latch = .output → exec .latchLow s = .next { s with level := { s.level with latch := false } }) ∧
    (s.dir.latch ≠ .output → exec .latchLow s = .next { s with refusal := some (.lineNotOutput .latch) })

/-- 40_line_driver R81: LATCH_HIGH copies the storage to the outputs on a rising edge, and only there. -/
def Obligations.LatchHighCopiesStore : Prop :=
  decode (.lineop3 0b101#3) = .ok .latchHigh ∧
  ∀ s : State,
    (s.dir.latch = .output → s.level.latch = false → exec .latchHigh s = .next
      { s with level := { s.level with latch := true }, srOut := s.srStore }) ∧
    (s.dir.latch = .output → s.level.latch = true → exec .latchHigh s = .next s) ∧
    (s.dir.latch ≠ .output → exec .latchHigh s = .next { s with refusal := some (.lineNotOutput .latch) })

/-- 40_line_driver R82: INIT, in any state: every line an output at 0, its port bit 0, no other port bit and nothing of the
attached register or of `W`, `K`, `phase` changed, and `init_done` = 1. -/
def Obligations.InitDrivesLinesLow : Prop :=
  decode (.lineop3 0b110#3) = .ok .init ∧
  ∀ s : State, ∃ t, exec .init s = .next t ∧
    t = { s with dir := ⟨.output, .output, .output⟩, level := ⟨false, false, false⟩, initDone := true } ∧
    (∀ l, t.portBit (Config.pin l) = false) ∧
    (∀ p, (∀ l, p ≠ Config.pin l) → t.portBit p = s.portBit p)

/-- 40_line_driver R83, 30_encoding R70: the reserved code is refused, changes nothing else, and no agent issues it. -/
def Obligations.ReservedLineCodeRefused : Prop :=
  ∀ s : State,
    lineDriver 0b111#3 s = .next { s with refusal := some (.rsvLineop 0b111#3) } ∧
    issued s ≠ some 0b111#3

/-- 20_memory R50, R42: repeating a line write leaves the state as one write left it, and two ShiftClock pulses shift twice. -/
def Obligations.LineWriteIdempotent : Prop :=
  (∀ (l : Line) (b : Level) (s t : State), s.dir.get l = .output → lineWrite l b s = .next t → lineWrite l b t = .next t) ∧
  (∀ s : State, s.dir.sclk = .output → s.level.sclk = false → ∃ t1 t2 t3 t4,
    exec .sclkHigh s = .next t1 ∧ exec .sclkLow t1 = .next t2 ∧ exec .sclkHigh t2 = .next t3 ∧
    exec .sclkLow t3 = .next t4 ∧
    t4 = { s with srStore := BitVec.ofNat 8 (4 * s.srStore.toNat + 3 * s.level.data.toNat) })

/-- 20_memory R45, over every step but a power loss: the attached register's storage changes only where the step issues
SCLK_HIGH with ShiftClock low, its outputs only where it issues LATCH_HIGH with Latch low, and never do both lines rise. -/
def Obligations.RegisterChangesOnlyOnRises : Prop :=
  ∀ (park : Bool) (s t : State), s.powered → stepWith park s = .next t →
    (t.srStore ≠ s.srStore → issued s = some 0b011#3 ∧ s.level.sclk = false) ∧
    (t.srOut ≠ s.srOut → issued s = some 0b101#3 ∧ s.level.latch = false ∧ t.srOut = s.srStore) ∧
    ¬ (s.level.sclk = false ∧ t.level.sclk = true ∧ s.level.latch = false ∧ t.level.latch = true)

/-- 10_state R26, 20_memory R41: no step but a power loss changes a port bit that is no line's. -/
def Obligations.OtherPortBitsKept : Prop :=
  ∀ (park : Bool) (s t : State), s.powered → stepWith park s = .next t →
    t.portRest = s.portRest ∧ ∀ p, (∀ l, p ≠ Config.pin l) → t.portBit p = s.portBit p

/-- 00_scope R9: once initialized and without `rst`, a step changes the level of one line at most. -/
def Obligations.OneLineWritePerStep : Prop :=
  ∀ (park : Bool) (s t : State), s.undisturbed → s.initDone = true → stepWith park s = .next t →
    ∃ l, ∀ l', l' ≠ l → t.level.get l' = s.level.get l'

/-! ## The commands -/

/-- 41_shift_engine R85: the accept step of PUSH, for every byte, and its word; no line is written and the attached register is
unchanged. -/
def Obligations.PushLoadsWorkingValue : Prop :=
  ∀ (v : Byte) (s : State),
    decode (.cmd16 ((v.setWidth 16 <<< 8) ||| 0x0001#16)) = .ok (.push v) ∧
    (s.ready = true → exec (.push v) s = .next { s with w := v, k := 0#4, phase := .data })

/-- 41_shift_engine R86: the accept step of CLEAR. -/
def Obligations.ClearLoadsZero : Prop :=
  decode (.cmd16 0x0002#16) = .ok .clear ∧
  ∀ s : State, s.ready = true → exec .clear s = .next { s with w := 0x00#8, k := 0#4, phase := .data }

/-- 93_implementation_defined I12: a command that reaches the engine while `ready` = 0 is stuck. The fault's name is the model's
(log entry 6). -/
def Obligations.CommandNeedsReady : Prop :=
  ∀ (v : Byte) (s : State), s.ready = false →
    exec (.push v) s = .fault .commandWhileNotReady ∧ exec .clear s = .fault .commandWhileNotReady

/-! ## The step -/

/-- 41_shift_engine R84 case (b): an offered command word that decodes is executed by the step that meets it. -/
def Obligations.StepRunsOfferedCommand : Prop :=
  (∀ s : State, step s = stepWith Config.parkDataLow s) ∧
  ∀ (park : Bool) (s : State) (c : CmdWord) (rest : List Input) (i : Instr),
    s.ready = true → s.inputs = .command c :: rest → decodeCmd c = .ok i →
    stepWith park s = exec i { s with inputs := rest }

/-- 60_exceptions R117: an offered reserved word sets `refused`, records the reason and the word, writes nothing else, and ends
`ready`. -/
def Obligations.ReservedWordMarksRefused : Prop :=
  ∀ (park : Bool) (s : State) (c : CmdWord) (rest : List Input) (r : RefuseReason),
    s.ready = true → s.inputs = .command c :: rest → decodeCmd c = .error r →
    ∃ t, stepWith park s = .next t ∧ t = { s with inputs := rest, refusal := some r } ∧ t.refused = true ∧ t.ready = false

/-- In a push, the step runs the line operation that the phase's code decodes to, and then moves the engine's registers on,
unless the operation was refused (41_shift_engine R84 case (a), 30_encoding R60, 60_exceptions R117). -/
def Obligations.StepRunsPhaseOperation : Prop :=
  ∀ (park : Bool) (s t : State) (o : LineCode) (i : Instr),
    s.enginesTurn → phaseCode s = some o → decodeLineOp o = .ok i → exec i s.passHold = .next t →
    stepWith park s = .next (if t.refusal = none then advance park t else t)

/-- The model's own placement of an instruction (log entry 17): the step after it runs the instruction that the table's bits
decode to. A command is the one offered, and the step is exec of it. A line write is the one issued, and the step is exec of it,
after which the engine's registers move on unless it was refused. INIT is issued by the reset sequence, which is the step: exec
of INIT, and then the reset of `W`, `K` and `phase`. -/
def Obligations.PlacedInstructionRuns : Prop :=
  ∀ (s p : State) (nbits w : Nat) (i : Instr), decodeTableWord nbits w = some i → p = s.withFetchWord nbits w →
    (∀ c, encode i = .cmd16 c → p.cmdOffered = some c ∧ step p = exec i { p with inputs := s.inputs }) ∧
    (∀ o, encode i = .lineop3 o → i ≠ .init → issued p = some o ∧
      ∃ t, exec i p.passHold = .next t ∧
        step p = .next (if t.refusal = none then advance Config.parkDataLow t else t)) ∧
    (i = .init → issued p = some 0b110#3 ∧ step p = resetSequence { p with inputs := s.inputs } ∧
      ∃ t, exec i { p with inputs := s.inputs } = .next t ∧
        step p = .next { t with w := 0x00#8, k := 0#4, phase := .idle })

/-! ## The phases -/

/-- 41_shift_engine R87: phase DATA writes `W[7]` to Data, also where Data has that level already. -/
def Obligations.PhaseDataWritesTopBit : Prop :=
  ∀ (park : Bool) (s : State), s.enginesTurn → s.linesOut → s.phase = .data →
    issued s = some (if s.w.getLsbD 7 then 0b001#3 else 0b000#3) ∧
    stepWith park s = .next
      { s with level := { s.level with data := s.w.getLsbD 7 }, phase := .sclkH, inputs := s.passHold.inputs }

/-- 41_shift_engine R88: phase SCLK_H raises ShiftClock. Under the invariant ShiftClock is low on entry, so the register always
shifts once. -/
def Obligations.PhaseSclkHShiftsOnce : Prop :=
  ∀ (park : Bool) (s : State), sequencerInv park s → s.enginesTurn → s.phase = .sclkH →
    s.level.sclk = false ∧ s.level.data = s.w.getLsbD 7 ∧ issued s = some 0b011#3 ∧
    stepWith park s = .next
      { s with level := { s.level with sclk := true }, phase := .sclkL,
               srStore := BitVec.ofNat 8 (2 * s.srStore.toNat + s.level.data.toNat), inputs := s.passHold.inputs }

/-- 41_shift_engine R89: phase SCLK_L lowers ShiftClock, shifts `W`, counts the bit, and goes on to LATCH_H after the eighth. -/
def Obligations.PhaseSclkLCountsBit : Prop :=
  (∀ (park : Bool) (s : State), s.enginesTurn → s.linesOut → s.phase = .sclkL →
    issued s = some 0b010#3 ∧
    stepWith park s = .next
      { s with level := { s.level with sclk := false }, w := BitVec.ofNat 8 (2 * s.w.toNat), k := s.k + 1#4,
               phase := if s.k + 1#4 = 8#4 then .latchH else .data, inputs := s.passHold.inputs }) ∧
  (∀ (park : Bool) (s t : State), sequencerInv park s → s.enginesTurn → s.phase = .sclkL →
    stepWith park s = .next t → 1 ≤ t.k.toNat ∧ t.k.toNat ≤ 8 ∧ (t.k = 8#4 → t.w = 0x00#8))

/-- 41_shift_engine R90: phase LATCH_H raises Latch. Under the invariant `K` = 8 and Latch is low on entry, so the outputs
always take the storage. -/
def Obligations.PhaseLatchHCopiesStore : Prop :=
  ∀ (park : Bool) (s : State), sequencerInv park s → s.enginesTurn → s.phase = .latchH →
    s.level.latch = false ∧ s.k = 8#4 ∧ issued s = some 0b101#3 ∧
    stepWith park s = .next
      { s with level := { s.level with latch := true }, phase := .latchL, srOut := s.srStore, inputs := s.passHold.inputs }

/-- 41_shift_engine R91: phase LATCH_L lowers Latch, and goes to PARK, or to IDLE where Data is not parked. -/
def Obligations.PhaseLatchLEndsPulse : Prop :=
  ∀ (park : Bool) (s : State), s.enginesTurn → s.linesOut → s.phase = .latchL →
    issued s = some 0b100#3 ∧
    stepWith park s = .next
      { s with level := { s.level with latch := false }, phase := if park then .park else .idle,
               inputs := s.passHold.inputs }

/-- 41_shift_engine R92: phase PARK drives Data low and ends the push. -/
def Obligations.PhaseParkDrivesDataLow : Prop :=
  ∀ (park : Bool) (s : State), s.enginesTurn → s.linesOut → s.phase = .park →
    issued s = some 0b000#3 ∧
    stepWith park s = .next { s with level := { s.level with data := false }, phase := .idle, inputs := s.passHold.inputs }

/-- 41_shift_engine R93: a step that finds phase 7 refuses and writes no line, and no step enters phase 7 but a power-up whose
draw it is. -/
def Obligations.ReservedPhaseRefused : Prop :=
  (∀ (park : Bool) (s : State), s.enginesTurn → s.phase = .reserved →
    issued s = none ∧
    stepWith park s = .next { s with refusal := some (.badPhase 7#3), inputs := s.passHold.inputs }) ∧
  (∀ (park : Bool) (s t : State), s.powered → s.phase ≠ .reserved → stepWith park s = .next t → t.phase ≠ .reserved)

/-- 41_shift_engine R84: under the invariant the engine is never stuck in a push, and each of its steps moves the sequencer. -/
def Obligations.EngineNeverStuck : Prop :=
  ∀ (park : Bool) (s : State), sequencerInv park s → s.enginesTurn →
    ∃ t, stepWith park s = .next t ∧ t.refusal = none ∧ t.phase ≠ s.phase

/-- 41_shift_engine R84, 42_host_interface R109, 60_exceptions R127: in IDLE with no move of the host nothing changes, and a
hold and WAIT change nothing but that they have passed. That a hold is a step is the model's (log entries 4 and 5). -/
def Obligations.HoldAndWaitChangeNothing : Prop :=
  (∀ (park : Bool) (s : State), s.ready = true → s.inputs = [] → stepWith park s = .next s) ∧
  (∀ (park : Bool) (s : State) (rest : List Input), s.ready = true → s.inputs = .hold :: rest →
    stepWith park s = .next { s with inputs := rest }) ∧
  (∀ (park : Bool) (s : State) (ms : Nat) (rest : List Input), s.ready = true → s.inputs = .wait ms :: rest →
    stepWith park s = .next { s with inputs := rest })

/-- 42_host_interface R106: while `ready` = 0 a command of the host stays where it is, neither accepted nor lost. -/
def Obligations.HostHoldsWhileBusy : Prop :=
  ∀ (park : Bool) (s t : State) (c : CmdWord) (rest : List Input), s.inputs = .command c :: rest →
    stepWith park s = .next t →
    (s.ready = false → t.inputs = s.inputs ∧ s.cmdOffered = none) ∧
    (s.ready = true → t.inputs = rest ∧ s.cmdOffered = some c ∧ t.ready = false)

/-! ## A whole push -/

/-- 41_shift_engine R95, R96, R103: from any ready state with ShiftClock and Latch low, the accept step and 27 line writes (26
where Data is not parked) leave this state, whatever the register, Data and the engine's registers held, and output pin `Q[i]`
shows bit `i` of the byte. -/
def Obligations.PushReachesOutputs : Prop :=
  ∀ (park : Bool) (s : State) (v : Byte) (rest : List Input), s.atRest → hostHolds rest →
    s.inputs = .command ((v.setWidth 16 <<< 8) ||| 0x0001#16) :: rest →
    ∃ t, runWith park (1 + if park then 27 else 26) s = .next t ∧
      t = { s with w := 0x00#8, k := 8#4, phase := .idle, level := ⟨if park then false else v.getLsbD 0, false, false⟩,
                   srStore := v, srOut := v, inputs := rest } ∧
      t.ready = true ∧ ∀ i : Fin 8, t.q i = v.getLsbD i.val

/-- 41_shift_engine R94, R103: the line-write trace of one push. -/
def Obligations.PushTraceIsProtocol : Prop :=
  ∀ (park : Bool) (s : State) (v : Byte) (rest : List Input), s.atRest → hostHolds rest →
    s.inputs = .command ((v.setWidth 16 <<< 8) ||| 0x0001#16) :: rest →
    traceWith park (1 + if park then 27 else 26) s =
      [7, 6, 5, 4, 3, 2, 1, 0].flatMap
        (fun i => [if v.getLsbD i then 0b001#3 else 0b000#3, 0b011#3, 0b010#3])
      ++ [0b101#3, 0b100#3] ++ (if park then [0b000#3] else [])

/-- 41_shift_engine R101: how long a push is, and how often each line is written in it. -/
def Obligations.PushLength : Prop :=
  ∀ (park : Bool) (s : State) (v : Byte) (rest : List Input), s.atRest → hostHolds rest →
    s.inputs = .command ((v.setWidth 16 <<< 8) ||| 0x0001#16) :: rest →
    (∀ n, n < (if park then 27 else 26) → ∃ t, runWith park (1 + n) s = .next t ∧ t.ready = false) ∧
    (∃ t, runWith park (1 + if park then 27 else 26) s = .next t ∧ t.ready = true) ∧
    (let tr := traceWith park (1 + if park then 27 else 26) s
     tr.length = (if park then 27 else 26) ∧
     tr.count 0b011#3 = 8 ∧ tr.count 0b010#3 = 8 ∧ tr.count 0b101#3 = 1 ∧ tr.count 0b100#3 = 1 ∧
     tr.count 0b000#3 + tr.count 0b001#3 = (if park then 9 else 8) ∧
     (∀ i j : Nat, tr[i]? = some 0b011#3 → tr[j]? = some 0b101#3 → i < j))

/-- 41_shift_engine R97: after `n` line writes of a push, `min 8 ((n + 1) / 3)` of them ShiftClock rises, the storage holds that
many bits of the byte, and the outputs have not moved before the 25th write, LATCH_HIGH. -/
def Obligations.OutputsHoldUntilLatch : Prop :=
  ∀ (park : Bool) (s : State) (v : Byte) (rest : List Input) (n : Nat), s.atRest → hostHolds rest →
    s.inputs = .command ((v.setWidth 16 <<< 8) ||| 0x0001#16) :: rest → n ≤ (if park then 27 else 26) →
    ∃ t, runWith park (1 + n) s = .next t ∧
      (traceWith park (1 + n) s).count 0b011#3 = min 8 ((n + 1) / 3) ∧
      t.srStore = (s.srStore <<< min 8 ((n + 1) / 3)) ||| (v >>> (8 - min 8 ((n + 1) / 3))) ∧
      t.srOut = (if n < 25 then s.srOut else v)

/-- 41_shift_engine R98: two pushes in a row leave the second byte and no bit of the first. -/
def Obligations.SecondPushLeavesNoResidue : Prop :=
  ∀ (park : Bool) (s : State) (a b : Byte) (rest : List Input), s.atRest → hostHolds rest →
    s.inputs = .command ((a.setWidth 16 <<< 8) ||| 0x0001#16) :: .command ((b.setWidth 16 <<< 8) ||| 0x0001#16) :: rest →
    ∃ t, runWith park (2 * (1 + if park then 27 else 26)) s = .next t ∧ t.srStore = b ∧ t.srOut = b ∧ t.ready = true

/-- 41_shift_engine R99: CLEAR is PUSH 0x00: the same state after the accept step, the same trace, and outputs all zero. -/
def Obligations.ClearIsPushZero : Prop :=
  (∀ s : State, exec .clear s = exec (.push 0x00#8) s) ∧
  (∀ (park : Bool) (s : State) (rest : List Input), s.atRest → hostHolds rest →
    s.inputs = .command 0x0002#16 :: rest →
    runWith park (1 + if park then 27 else 26) s =
      runWith park (1 + if park then 27 else 26) { s with inputs := .command 0x0001#16 :: rest } ∧
    traceWith park (1 + if park then 27 else 26) s =
      (List.replicate 8 [0b000#3, 0b011#3, 0b010#3]).flatten ++ [0b101#3, 0b100#3] ++ (if park then [0b000#3] else []) ∧
    ∃ t, runWith park (1 + if park then 27 else 26) s = .next t ∧ t.srOut = 0x00#8)

/-- 70_reset_and_hazards R131: `rst` after `n` line writes of a push aborts it: IDLE, all lines low, and the attached register
as those writes left it. (93_implementation_defined I14 says not to rely on the register's value on a chip: log entry 16.) -/
def Obligations.ResetAbortsPush : Prop :=
  ∀ (park : Bool) (s : State) (v : Byte) (rest : List Input) (n : Nat), s.atRest →
    s.inputs = .command ((v.setWidth 16 <<< 8) ||| 0x0001#16) :: (List.replicate n .hold ++ .reset :: rest) →
    n ≤ (if park then 27 else 26) →
    runWith park (1 + n + 1) s = .next
      { s with w := 0x00#8, k := 0#4, phase := .idle, level := ⟨false, false, false⟩, inputs := rest,
               srStore := (s.srStore <<< min 8 ((n + 1) / 3)) ||| (v >>> (8 - min 8 ((n + 1) / 3))),
               srOut := if n < 25 then s.srOut else v }

/-- 70_reset_and_hazards R135, R136, 41_shift_engine R102: whatever happens (pushes, resets in mid-push, power losses), the timing
premises ask something of neighbouring line operations only: of a ShiftClock rise and the operation before it the setup time, and
of a rise of ShiftClock or Latch and the operation that ends the pulse, which is the next one, the pulse width. So a pulse that
`rst` cuts counts with the width INIT leaves it. The trace's times are given, and the premises are the model's form of R135 and
R136 (log entry 15). -/
def Obligations.TimingIsBetweenNeighbours : Prop :=
  ∀ (park : Bool) (s : State) (n tSu tW : Nat) (tr : List TimedOp), sequencerInv park s →
    tr.map TimedOp.code = traceWith park n s →
    (setupHeld tSu none tr = true ↔ ∀ (j : Nat) (a b : TimedOp), tr[j]? = some a → tr[j + 1]? = some b →
      b.code = 0b011#3 → a.time + tSu ≤ b.time) ∧
    (pulseHeld 0b011#3 0b010#3 tW none tr = true ↔ ∀ (j : Nat) (a b : TimedOp), tr[j]? = some a → tr[j + 1]? = some b →
      a.code = 0b011#3 → a.time + tW ≤ b.time) ∧
    (pulseHeld 0b101#3 0b100#3 tW none tr = true ↔ ∀ (j : Nat) (a b : TimedOp), tr[j]? = some a → tr[j + 1]? = some b →
      a.code = 0b101#3 → a.time + tW ≤ b.time)

/-- 70_reset_and_hazards R137: Latch rises only in phase LATCH_H with `K` = 8, and no command touches a line. -/
def Obligations.LatchOnlyAfterEightBits : Prop :=
  (∀ (park : Bool) (s t : State), sequencerInv park s → s.powered → s.initDone = true → stepWith park s = .next t →
    s.level.latch = false → t.level.latch = true → s.phase = .latchH ∧ s.k = 8#4) ∧
  (∀ (v : Byte) (s t : State), exec (.push v) s = .next t ∨ exec .clear s = .next t → t.level = s.level ∧ t.dir = s.dir)

/-- 20_memory R40, 42_host_interface R108: nothing the block does depends on what the attached register holds. -/
def Obligations.RegisterNeverReadBack : Prop :=
  ∀ (park : Bool) (s t : State) (a b : Byte), stepWith park s = .next t →
    issued { s with srStore := a, srOut := b } = issued s ∧
    ∃ a' b', stepWith park { s with srStore := a, srOut := b } = .next { t with srStore := a', srOut := b' }

/-! ## Reset -/

/-- 70_reset_and_hazards R129, R132: `rst` in any state, and a power-up, is one step, which issues INIT and writes `W`, `K` and
`phase`, and keeps the attached register and `refused`. -/
def Obligations.ResetSequenceStep : Prop :=
  (∀ (park : Bool) (s : State) (rest : List Input), s.inputs = .reset :: rest →
    s.rstAsserted = true ∧ issued s = some 0b110#3 ∧
    stepWith park s = .next
      { s with dir := ⟨.output, .output, .output⟩, level := ⟨false, false, false⟩, initDone := true,
               w := 0x00#8, k := 0#4, phase := .idle, inputs := rest }) ∧
  (∀ (park : Bool) (s : State), s.initDone = false → s.undisturbed →
    issued s = some 0b110#3 ∧
    stepWith park s = .next
      { s with dir := ⟨.output, .output, .output⟩, level := ⟨false, false, false⟩, initDone := true,
               w := 0x00#8, k := 0#4, phase := .idle })

/-- 70_reset_and_hazards R130: after the reset sequence the phase is IDLE, `ready` = 1 unless `refused` = 1, and every line is
an output at level 0; the invariant holds from any state. -/
def Obligations.ResetMakesReady : Prop :=
  ∀ (park : Bool) (s t : State) (rest : List Input), s.inputs = .reset :: rest → stepWith park s = .next t →
    t.phase = .idle ∧ t.ready = !s.refused ∧ (∀ l, t.dir.get l = .output ∧ t.level.get l = false) ∧
    t.linesIdle park ∧ sequencerInv park t

/-- 10_state R31, 70_reset_and_hazards R128: a power-up begins with the reset sequence, whatever the draws, and leaves every
register at its reset value but the draws that reset does not change. State.reset's own values for those are the model's
choice (log entries 2 and 3), and no statement rests on them. -/
def Obligations.PowerUpRunsReset : Prop :=
  ∀ (park : Bool) (d : Draws) (ins : List Input), (powerUp d ins).undisturbed →
    (powerUp d ins).ready = false ∧
    stepWith park (powerUp d ins) = .next
      { State.reset with portRest := d.portRest, srStore := d.srStore, srOut := d.srOut, inputs := ins }

/-- 10_state R21: only INIT sets `init_done`, and nothing clears it but a power loss. -/
def Obligations.InitDoneKept : Prop :=
  ∀ (park : Bool) (s t : State), stepWith park s = .next t →
    (s.powered → s.initDone = true → t.initDone = true) ∧
    (s.initDone = false → t.initDone = true → issued s = some 0b110#3) ∧
    (¬ s.powered → t.initDone = false)

/-! ## Refusal -/

/-- 10_state R28, 60_exceptions R117: `refused` is never cleared, not even by reset, the record stays, and `ready` stays 0; once
initialized, no line operation but a reset's INIT is issued, and the one step without `rst` and power loss is a hold, which
leaves the levels, the directions, the port, `W`, `K`, `phase` and the attached register as they were. That such a step is there
for time to pass is the model's (log entry 7). -/
def Obligations.RefusedIsSticky : Prop :=
  ∀ (park : Bool) (s t : State), s.refused = true → stepWith park s = .next t →
    t.refusal = s.refusal ∧ t.ready = false ∧ (s.initDone = true → issued s = none ∨ issued s = some 0b110#3) ∧
    (s.initDone = true → s.undisturbed → ∃ rest, s.inputs = .hold :: rest ∧ t = { s with inputs := rest })

/-- 60_exceptions R117: after a refusal, where `rst` is not asserted and the host would make a move or has none, the machine has
no step: it answers the reason. -/
def Obligations.RefusedRunStops : Prop :=
  ∀ (park : Bool) (s : State) (r : RefuseReason), s.initDone = true → s.refusal = some r → hostHolds s.inputs →
    stepWith park s = .refused (.afterRefuse r)

/-- 60_exceptions R116: under the invariant a step meets the refusals 1 to 3 only, and only for a reserved word the host
offered, for the reason that the decoder gives of it. -/
def Obligations.OnlyReservedWordsRefused : Prop :=
  ∀ (park : Bool) (s t : State) (r : RefuseReason), sequencerInv park s → s.refusal = none → stepWith park s = .next t →
    t.refusal = some r →
    ∃ c, s.cmdOffered = some c ∧ decodeCmd c = .error r ∧ (r = .rsvOp c ∨ r = .rsvBits c ∨ r = .clearImm c)

/-! ## Invariants -/

/-- Every step keeps the sequencer's invariant, with Data parked or not, from every state that meets it. -/
def Obligations.StepKeepsSequencerInv : Prop :=
  (∀ (park : Bool) (s t : State), sequencerInv park s → stepWith park s = .next t → sequencerInv park t) ∧
  (∀ s t : State, sequencerInv Config.parkDataLow s → step s = .next t → sequencerInv Config.parkDataLow t)

/-- The sequencer's invariant holds after reset and at every power-up. -/
def Obligations.ResetMeetsSequencerInv : Prop :=
  sequencerInv Config.parkDataLow State.reset ∧ ∀ (park : Bool) (d : Draws) (ins : List Input), sequencerInv park (powerUp d ins)

/-- 10_state R30: in every run from every power-up, with any moves of the host, resets and power losses: whenever `init_done` =
1 and `phase` = IDLE, ShiftClock and Latch are low, Data is low where it is parked, and every line is an output. -/
def Obligations.LinesIdleInEveryRun : Prop :=
  ∀ (park : Bool) (d : Draws) (ins : List Input) (n : Nat) (t : State), runWith park n (powerUp d ins) = .next t →
    t.initDone = true → t.phase = .idle → t.linesIdle park
end

