-- ==== Sys2Proof/Laws/Decode.lean ====
section
/-! SUPPORT. A command word is its three fields (30_encoding R61), and the shift as arithmetic. -/
namespace Sys2Proof

/-- A command word is the concatenation of its fields (30_encoding R61). -/
theorem cmdWord_fields (c : CmdWord) : c = cmdImm8 c ++ cmdRsv c ++ cmdOp c := by
  have h : ∀ (x : Byte) (y z : BitVec 4), (x ++ y ++ z).toNat = x.toNat * 256 + y.toNat * 16 + z.toNat := by
    intro x y z
    simp only [BitVec.toNat_append]
    rw [← Nat.shiftLeft_add_eq_or_of_lt y.isLt, ← Nat.shiftLeft_add_eq_or_of_lt z.isLt]
    simp only [Nat.shiftLeft_eq]
    omega
  apply BitVec.eq_of_toNat_eq
  rw [h]
  simp only [cmdImm8, cmdRsv, cmdOp, BitVec.extractLsb'_toNat, Nat.shiftRight_eq_div_pow]
  have := c.isLt
  omega

/-- Shifting a bit into a byte is doubling and adding, mod 256 (20_memory R43). -/
theorem shiftIn_eq (x : Byte) (b : Bool) :
    (x <<< 1) ||| (BitVec.ofBool b).setWidth 8 = BitVec.ofNat 8 (2 * x.toNat + b.toNat) := by
  revert b x; decide

end Sys2Proof
end

