-- ==== Sys2Proof/Laws/Operands.lean ====
section
/-! SUPPORT. The small lemmas of the operand forms: named lines, the tested bit, phase codes, the port view. -/
namespace Sys2Proof

@[simp] theorem PerLine.get_set_self {α : Type} (p : PerLine α) (l : Line) (a : α) : (p.set l a).get l = a := by
  cases l <;> rfl

@[simp] theorem PerLine.get_set_other {α : Type} (p : PerLine α) {l l' : Line} (a : α) (h : l' ≠ l) :
    (p.set l a).get l' = p.get l' := by
  cases l <;> cases l' <;> first | rfl | exact absurd rfl h

@[simp] theorem PerLine.get_all {α : Type} (a : α) (l : Line) : (PerLine.all a).get l = a := by
  cases l <;> rfl

@[simp] theorem PerLine.get_data {α : Type} (p : PerLine α) : p.get .data = p.data := rfl
@[simp] theorem PerLine.get_sclk {α : Type} (p : PerLine α) : p.get .sclk = p.sclk := rfl
@[simp] theorem PerLine.get_latch {α : Type} (p : PerLine α) : p.get .latch = p.latch := rfl

@[simp] theorem PerLine.set_data {α : Type} (p : PerLine α) (a : α) : p.set .data a = { p with data := a } := rfl
@[simp] theorem PerLine.set_sclk {α : Type} (p : PerLine α) (a : α) : p.set .sclk a = { p with sclk := a } := rfl
@[simp] theorem PerLine.set_latch {α : Type} (p : PerLine α) (a : α) : p.set .latch a = { p with latch := a } := rfl

namespace Machine

/-- The mask test reads bit 7 (41_shift_engine R100). -/
theorem msbSet_eq (w : Byte) : msbSet w = w.getLsbD 7 := by
  revert w; decide

/-- A phase is named by its code. -/
theorem Phase.code_injective : ∀ p q : Phase, p.code = q.code → p = q := by
  intro p q; cases p <;> cases q <;> decide

/-- The three pins are distinct bits of the port (00_scope R6). -/
theorem pin_injective : ∀ l l' : Line, Config.pin l = Config.pin l' → l = l' := by
  intro l l' h
  cases l <;> cases l' <;>
    first
      | rfl
      | exact absurd (congrArg Fin.val (Config.pinMap.injective h)) (by simp)

/-- The port bit of a line is its level (10_state R26). -/
theorem State.portBit_pin (s : State) (l : Line) : s.portBit (Config.pin l) = s.level.get l := by
  cases l <;> simp [State.portBit, Config.pin]

/-- A port bit that is no line's is one of the other bits: it does not depend on the levels (10_state R26). -/
theorem State.portBit_other (s t : State) (p : Fin Config.portW) (hp : ∀ l, p ≠ Config.pin l)
    (h : t.portRest = s.portRest) : t.portBit p = s.portBit p := by
  obtain ⟨q, rfl⟩ := Config.pinMap.surjective p
  match hq : q with
  | ⟨0, _⟩ => exact absurd rfl (hp .data)
  | ⟨1, _⟩ => exact absurd rfl (hp .sclk)
  | ⟨2, _⟩ => exact absurd rfl (hp .latch)
  | ⟨n + 3, _⟩ => simp [State.portBit, h]

end Machine
end Sys2Proof
end

