-- ==== Sys2Proof/Laws/State.lean ====
section
/-! SUPPORT. One lemma per field per update of State, true by rfl, so that no later proof unfolds a record update; and the
lemmas of the computed fields. -/
namespace Sys2Proof.Machine

/-! ### markRefused -/

@[simp] theorem State.markRefused_w (s : State) (r : RefuseReason) :
    (s.markRefused r).w = s.w := rfl

@[simp] theorem State.markRefused_k (s : State) (r : RefuseReason) :
    (s.markRefused r).k = s.k := rfl

@[simp] theorem State.markRefused_phase (s : State) (r : RefuseReason) :
    (s.markRefused r).phase = s.phase := rfl

@[simp] theorem State.markRefused_initDone (s : State) (r : RefuseReason) :
    (s.markRefused r).initDone = s.initDone := rfl

@[simp] theorem State.markRefused_level (s : State) (r : RefuseReason) :
    (s.markRefused r).level = s.level := rfl

@[simp] theorem State.markRefused_dir (s : State) (r : RefuseReason) :
    (s.markRefused r).dir = s.dir := rfl

@[simp] theorem State.markRefused_portRest (s : State) (r : RefuseReason) :
    (s.markRefused r).portRest = s.portRest := rfl

@[simp] theorem State.markRefused_srStore (s : State) (r : RefuseReason) :
    (s.markRefused r).srStore = s.srStore := rfl

@[simp] theorem State.markRefused_srOut (s : State) (r : RefuseReason) :
    (s.markRefused r).srOut = s.srOut := rfl

@[simp] theorem State.markRefused_refusal (s : State) (r : RefuseReason) :
    (s.markRefused r).refusal = some r := rfl

@[simp] theorem State.markRefused_inputs (s : State) (r : RefuseReason) :
    (s.markRefused r).inputs = s.inputs := rfl

/-! ### setLevel -/

@[simp] theorem State.setLevel_w (s : State) (l : Line) (b : Level) :
    (s.setLevel l b).w = s.w := rfl

@[simp] theorem State.setLevel_k (s : State) (l : Line) (b : Level) :
    (s.setLevel l b).k = s.k := rfl

@[simp] theorem State.setLevel_phase (s : State) (l : Line) (b : Level) :
    (s.setLevel l b).phase = s.phase := rfl

@[simp] theorem State.setLevel_initDone (s : State) (l : Line) (b : Level) :
    (s.setLevel l b).initDone = s.initDone := rfl

@[simp] theorem State.setLevel_level (s : State) (l : Line) (b : Level) :
    (s.setLevel l b).level = s.level.set l b := rfl

@[simp] theorem State.setLevel_dir (s : State) (l : Line) (b : Level) :
    (s.setLevel l b).dir = s.dir := rfl

@[simp] theorem State.setLevel_portRest (s : State) (l : Line) (b : Level) :
    (s.setLevel l b).portRest = s.portRest := rfl

@[simp] theorem State.setLevel_srStore (s : State) (l : Line) (b : Level) :
    (s.setLevel l b).srStore = s.srStore := rfl

@[simp] theorem State.setLevel_srOut (s : State) (l : Line) (b : Level) :
    (s.setLevel l b).srOut = s.srOut := rfl

@[simp] theorem State.setLevel_refusal (s : State) (l : Line) (b : Level) :
    (s.setLevel l b).refusal = s.refusal := rfl

@[simp] theorem State.setLevel_inputs (s : State) (l : Line) (b : Level) :
    (s.setLevel l b).inputs = s.inputs := rfl

/-! ### srShift -/

@[simp] theorem State.srShift_w (s : State) :
    (s.srShift).w = s.w := rfl

@[simp] theorem State.srShift_k (s : State) :
    (s.srShift).k = s.k := rfl

@[simp] theorem State.srShift_phase (s : State) :
    (s.srShift).phase = s.phase := rfl

@[simp] theorem State.srShift_initDone (s : State) :
    (s.srShift).initDone = s.initDone := rfl

@[simp] theorem State.srShift_level (s : State) :
    (s.srShift).level = s.level := rfl

@[simp] theorem State.srShift_dir (s : State) :
    (s.srShift).dir = s.dir := rfl

@[simp] theorem State.srShift_portRest (s : State) :
    (s.srShift).portRest = s.portRest := rfl

@[simp] theorem State.srShift_srStore (s : State) :
    (s.srShift).srStore = (s.srStore <<< 1) ||| (BitVec.ofBool s.level.data).setWidth 8 := rfl

@[simp] theorem State.srShift_srOut (s : State) :
    (s.srShift).srOut = s.srOut := rfl

@[simp] theorem State.srShift_refusal (s : State) :
    (s.srShift).refusal = s.refusal := rfl

@[simp] theorem State.srShift_inputs (s : State) :
    (s.srShift).inputs = s.inputs := rfl

/-! ### srLatch -/

@[simp] theorem State.srLatch_w (s : State) :
    (s.srLatch).w = s.w := rfl

@[simp] theorem State.srLatch_k (s : State) :
    (s.srLatch).k = s.k := rfl

@[simp] theorem State.srLatch_phase (s : State) :
    (s.srLatch).phase = s.phase := rfl

@[simp] theorem State.srLatch_initDone (s : State) :
    (s.srLatch).initDone = s.initDone := rfl

@[simp] theorem State.srLatch_level (s : State) :
    (s.srLatch).level = s.level := rfl

@[simp] theorem State.srLatch_dir (s : State) :
    (s.srLatch).dir = s.dir := rfl

@[simp] theorem State.srLatch_portRest (s : State) :
    (s.srLatch).portRest = s.portRest := rfl

@[simp] theorem State.srLatch_srStore (s : State) :
    (s.srLatch).srStore = s.srStore := rfl

@[simp] theorem State.srLatch_srOut (s : State) :
    (s.srLatch).srOut = s.srStore := rfl

@[simp] theorem State.srLatch_refusal (s : State) :
    (s.srLatch).refusal = s.refusal := rfl

@[simp] theorem State.srLatch_inputs (s : State) :
    (s.srLatch).inputs = s.inputs := rfl

/-! ### initLines -/

@[simp] theorem State.initLines_w (s : State) :
    (s.initLines).w = s.w := rfl

@[simp] theorem State.initLines_k (s : State) :
    (s.initLines).k = s.k := rfl

@[simp] theorem State.initLines_phase (s : State) :
    (s.initLines).phase = s.phase := rfl

@[simp] theorem State.initLines_initDone (s : State) :
    (s.initLines).initDone = true := rfl

@[simp] theorem State.initLines_level (s : State) :
    (s.initLines).level = .all Config.idleLevel := rfl

@[simp] theorem State.initLines_dir (s : State) :
    (s.initLines).dir = .all .output := rfl

@[simp] theorem State.initLines_portRest (s : State) :
    (s.initLines).portRest = s.portRest := rfl

@[simp] theorem State.initLines_srStore (s : State) :
    (s.initLines).srStore = s.srStore := rfl

@[simp] theorem State.initLines_srOut (s : State) :
    (s.initLines).srOut = s.srOut := rfl

@[simp] theorem State.initLines_refusal (s : State) :
    (s.initLines).refusal = s.refusal := rfl

@[simp] theorem State.initLines_inputs (s : State) :
    (s.initLines).inputs = s.inputs := rfl

/-! ### setEngine -/

@[simp] theorem State.setEngine_w (s : State) (w : Byte) (k : BitCount) (p : Phase) :
    (s.setEngine w k p).w = w := rfl

@[simp] theorem State.setEngine_k (s : State) (w : Byte) (k : BitCount) (p : Phase) :
    (s.setEngine w k p).k = k := rfl

@[simp] theorem State.setEngine_phase (s : State) (w : Byte) (k : BitCount) (p : Phase) :
    (s.setEngine w k p).phase = p := rfl

@[simp] theorem State.setEngine_initDone (s : State) (w : Byte) (k : BitCount) (p : Phase) :
    (s.setEngine w k p).initDone = s.initDone := rfl

@[simp] theorem State.setEngine_level (s : State) (w : Byte) (k : BitCount) (p : Phase) :
    (s.setEngine w k p).level = s.level := rfl

@[simp] theorem State.setEngine_dir (s : State) (w : Byte) (k : BitCount) (p : Phase) :
    (s.setEngine w k p).dir = s.dir := rfl

@[simp] theorem State.setEngine_portRest (s : State) (w : Byte) (k : BitCount) (p : Phase) :
    (s.setEngine w k p).portRest = s.portRest := rfl

@[simp] theorem State.setEngine_srStore (s : State) (w : Byte) (k : BitCount) (p : Phase) :
    (s.setEngine w k p).srStore = s.srStore := rfl

@[simp] theorem State.setEngine_srOut (s : State) (w : Byte) (k : BitCount) (p : Phase) :
    (s.setEngine w k p).srOut = s.srOut := rfl

@[simp] theorem State.setEngine_refusal (s : State) (w : Byte) (k : BitCount) (p : Phase) :
    (s.setEngine w k p).refusal = s.refusal := rfl

@[simp] theorem State.setEngine_inputs (s : State) (w : Byte) (k : BitCount) (p : Phase) :
    (s.setEngine w k p).inputs = s.inputs := rfl

/-! ### setInputs -/

@[simp] theorem State.setInputs_w (s : State) (l : List Input) :
    (s.setInputs l).w = s.w := rfl

@[simp] theorem State.setInputs_k (s : State) (l : List Input) :
    (s.setInputs l).k = s.k := rfl

@[simp] theorem State.setInputs_phase (s : State) (l : List Input) :
    (s.setInputs l).phase = s.phase := rfl

@[simp] theorem State.setInputs_initDone (s : State) (l : List Input) :
    (s.setInputs l).initDone = s.initDone := rfl

@[simp] theorem State.setInputs_level (s : State) (l : List Input) :
    (s.setInputs l).level = s.level := rfl

@[simp] theorem State.setInputs_dir (s : State) (l : List Input) :
    (s.setInputs l).dir = s.dir := rfl

@[simp] theorem State.setInputs_portRest (s : State) (l : List Input) :
    (s.setInputs l).portRest = s.portRest := rfl

@[simp] theorem State.setInputs_srStore (s : State) (l : List Input) :
    (s.setInputs l).srStore = s.srStore := rfl

@[simp] theorem State.setInputs_srOut (s : State) (l : List Input) :
    (s.setInputs l).srOut = s.srOut := rfl

@[simp] theorem State.setInputs_refusal (s : State) (l : List Input) :
    (s.setInputs l).refusal = s.refusal := rfl

@[simp] theorem State.setInputs_inputs (s : State) (l : List Input) :
    (s.setInputs l).inputs = l := rfl

/-! ### passHold: only the inputs change -/

@[simp] theorem State.passHold_w (s : State) : s.passHold.w = s.w := by
  unfold State.passHold; split <;> rfl

@[simp] theorem State.passHold_k (s : State) : s.passHold.k = s.k := by
  unfold State.passHold; split <;> rfl

@[simp] theorem State.passHold_phase (s : State) : s.passHold.phase = s.phase := by
  unfold State.passHold; split <;> rfl

@[simp] theorem State.passHold_initDone (s : State) : s.passHold.initDone = s.initDone := by
  unfold State.passHold; split <;> rfl

@[simp] theorem State.passHold_level (s : State) : s.passHold.level = s.level := by
  unfold State.passHold; split <;> rfl

@[simp] theorem State.passHold_dir (s : State) : s.passHold.dir = s.dir := by
  unfold State.passHold; split <;> rfl

@[simp] theorem State.passHold_portRest (s : State) : s.passHold.portRest = s.portRest := by
  unfold State.passHold; split <;> rfl

@[simp] theorem State.passHold_srStore (s : State) : s.passHold.srStore = s.srStore := by
  unfold State.passHold; split <;> rfl

@[simp] theorem State.passHold_srOut (s : State) : s.passHold.srOut = s.srOut := by
  unfold State.passHold; split <;> rfl

@[simp] theorem State.passHold_refusal (s : State) : s.passHold.refusal = s.refusal := by
  unfold State.passHold; split <;> rfl

/-! ### Computed fields -/

@[simp] theorem State.refused_eq_false (s : State) : s.refused = false ↔ s.refusal = none := by
  simp [State.refused]

@[simp] theorem State.refused_eq_true (s : State) : s.refused = true ↔ s.refusal ≠ none := by
  simp [State.refused, Option.isSome_iff_ne_none]

/-- `ready` says three things (10_state R24). -/
theorem State.ready_iff (s : State) :
    s.ready = true ↔ s.initDone = true ∧ s.phase = .idle ∧ s.refusal = none := by
  simp [State.ready, and_assoc]

@[simp] theorem State.setInputs_ready (s : State) (l : List Input) : (s.setInputs l).ready = s.ready := rfl

@[simp] theorem State.passHold_refused (s : State) : s.passHold.refused = s.refused := by
  simp [State.refused]

@[simp] theorem State.markRefused_ready (s : State) (r : RefuseReason) : (s.markRefused r).ready = false := by
  simp [State.ready, State.refused]

end Sys2Proof.Machine
end

