-- ==== Sys2Proof/Laws/Ops.lean ====
section
/-! SUPPORT. One lemma per shared operation that says everything it can do. -/
namespace Sys2Proof.Machine

/-- The reaction touches the attached register only, as 20_memory R43 to R45 say. -/
theorem State.srReact_eq (s : State) (l : Line) (old b : Level) :
    s.srReact l old b =
      { s with
        srStore := if l = .sclk ∧ old = false ∧ b = true then
            (s.srStore <<< 1) ||| (BitVec.ofBool s.level.data).setWidth 8 else s.srStore
        srOut := if l = .latch ∧ old = false ∧ b = true then s.srStore else s.srOut } := by
  cases l <;> cases old <;> cases b <;> rfl

/-- A line write to an output: the level, and the attached register's reaction (20_memory R41). -/
theorem lineWrite_out {l : Line} {s : State} (b : Level) (h : s.dir.get l = .output) :
    lineWrite l b s = .next ((s.setLevel l b).srReact l (s.level.get l) b) := by
  simp [lineWrite, h]

/-- A line write to a line that is no output is refused (20_memory R41). -/
theorem lineWrite_notOut {l : Line} {s : State} (b : Level) (h : s.dir.get l ≠ .output) :
    lineWrite l b s = .next (s.markRefused (.lineNotOutput l)) := by
  simp [lineWrite, raiseRefuse, h]

/-- Everything a line write can do. -/
theorem lineWrite_cases {l : Line} {b : Level} {s t : State} (h : lineWrite l b s = .next t) :
    (s.dir.get l = .output ∧ t = (s.setLevel l b).srReact l (s.level.get l) b) ∨
    (s.dir.get l ≠ .output ∧ t = s.markRefused (.lineNotOutput l)) := by
  by_cases hd : s.dir.get l = .output
  · rw [lineWrite_out b hd] at h; exact .inl ⟨hd, by cases h; rfl⟩
  · rw [lineWrite_notOut b hd] at h; exact .inr ⟨hd, by cases h; rfl⟩

/-- A line write always answers a next state: it has no failure mode (20_memory R41). -/
theorem lineWrite_next (l : Line) (b : Level) (s : State) : ∃ t, lineWrite l b s = .next t := by
  by_cases hd : s.dir.get l = .output
  · exact ⟨_, lineWrite_out b hd⟩
  · exact ⟨_, lineWrite_notOut b hd⟩

/-- Everything the accept step can do. -/
theorem acceptPush_cases {v : Byte} {s t : State} (h : acceptPush v s = .next t) :
    s.ready = true ∧ t = s.setEngine v 0#4 .data := by
  unfold acceptPush at h
  split at h
  · exact ⟨‹_›, by cases h; rfl⟩
  · cases h

/-- The reset sequence always answers this next state (70_reset_and_hazards R129). -/
theorem resetSequence_eq (s : State) : resetSequence s = .next (s.initLines.setEngine 0x00#8 0#4 .idle) := rfl

/-- The line driver on each code the agents issue. -/
theorem lineDriver_dataLow (s : State) : lineDriver 0b000#3 s = execDataLow s := rfl
theorem lineDriver_dataHigh (s : State) : lineDriver 0b001#3 s = execDataHigh s := rfl
theorem lineDriver_sclkLow (s : State) : lineDriver 0b010#3 s = execSclkLow s := rfl
theorem lineDriver_sclkHigh (s : State) : lineDriver 0b011#3 s = execSclkHigh s := rfl
theorem lineDriver_latchLow (s : State) : lineDriver 0b100#3 s = execLatchLow s := rfl
theorem lineDriver_latchHigh (s : State) : lineDriver 0b101#3 s = execLatchHigh s := rfl
theorem lineDriver_init (s : State) : lineDriver 0b110#3 s = execInit s := rfl

end Sys2Proof.Machine
end

