-- ==== Sys2Proof/Laws/PerInstr.lean ====
section
/-! SUPPORT. Statements made per instruction: the encoding of each instruction is a word of its row of spec/opcode_table.json,
in that row's format. -/
namespace Sys2Proof.Laws.TableRow

/-- The bits of a bus word as a number. -/
def bits : BusWord → Nat
  | .cmd16 c => c.toNat
  | .lineop3 o => o.toNat

/-- Whether a bus word stands on the command bus. -/
def isCommand : BusWord → Bool
  | .cmd16 _ => true
  | .lineop3 _ => false

/-- The row's format (`CMD16` or not), mask and match, as the opcode table gives them. -/
def row : Instr → Bool × Nat × Nat
  | .push _ => (true, 0x00FF, 0x0001)
  | .clear => (true, 0xFFFF, 0x0002)
  | .dataLow => (false, 0b111, 0b000)
  | .dataHigh => (false, 0b111, 0b001)
  | .sclkLow => (false, 0b111, 0b010)
  | .sclkHigh => (false, 0b111, 0b011)
  | .latchLow => (false, 0b111, 0b100)
  | .latchHigh => (false, 0b111, 0b101)
  | .init => (false, 0b111, 0b110)

/-- The encoding stands on the row's bus and meets the row's mask and match. -/
def Statement (i : Instr) : Prop :=
  isCommand (encode i) = (row i).1 ∧ bits (encode i) &&& (row i).2.1 = (row i).2.2

theorem push (imm8 : Byte) : Statement (.push imm8) := by
  refine ⟨rfl, ?_⟩
  revert imm8
  decide

theorem clear : Statement .clear := by unfold Statement; decide
theorem dataLow : Statement .dataLow := by unfold Statement; decide
theorem dataHigh : Statement .dataHigh := by unfold Statement; decide
theorem sclkLow : Statement .sclkLow := by unfold Statement; decide
theorem sclkHigh : Statement .sclkHigh := by unfold Statement; decide
theorem latchLow : Statement .latchLow := by unfold Statement; decide
theorem latchHigh : Statement .latchHigh := by unfold Statement; decide
theorem init : Statement .init := by unfold Statement; decide

end Sys2Proof.Laws.TableRow
end

