-- ==== Sys2Proof/Laws/Step.lean ====
section
/-! SUPPORT. What a step can do, said once: inversion lemmas for the host's turn, the engine's step and the whole step. -/
namespace Sys2Proof.Machine

/-- The command decoder answers a command only (30_encoding R64). -/
theorem decodeCmd_ok {c : CmdWord} {i : Instr} (h : decodeCmd c = .ok i) :
    (∃ v, i = .push v) ∨ i = .clear := by
  unfold decodeCmd at h
  split at h
  · cases h
  split at h
  · exact .inl ⟨_, by cases h; rfl⟩
  split at h
  · split at h
    · exact .inr (by cases h; rfl)
    · cases h
  · cases h

/-- The command decoder refuses for its own three reasons, and records the word (60_exceptions R116). -/
theorem decodeCmd_error {c : CmdWord} {r : RefuseReason} (h : decodeCmd c = .error r) :
    r = .rsvBits c ∨ r = .rsvOp c ∨ r = .clearImm c := by
  unfold decodeCmd at h
  split at h
  · exact .inl (by cases h; rfl)
  split at h
  · cases h
  split at h
  · split at h
    · cases h
    · exact .inr (.inr (by cases h; rfl))
  · exact .inr (.inl (by cases h; rfl))

/-- Everything an offered word can do (41_shift_engine R84 to R86). -/
theorem offerWord_cases {c : CmdWord} {s t : State} (h : offerWord c s = .next t) :
    (∃ v, s.ready = true ∧ t = s.setEngine v 0#4 .data) ∨
    (∃ r, decodeCmd c = .error r ∧ t = s.markRefused r) := by
  unfold offerWord at h
  cases hd : decodeCmd c with
  | ok i =>
    rw [hd] at h
    obtain ⟨v, rfl⟩ | rfl := decodeCmd_ok hd
    · exact .inl ⟨v, acceptPush_cases h⟩
    · exact .inl ⟨_, acceptPush_cases h⟩
  | error r =>
    rw [hd] at h
    exact .inr ⟨r, rfl, by cases h; rfl⟩

/-- Everything the host's turn can do. -/
theorem hostTurn_cases {s t : State} (h : hostTurn s = .next t) :
    (∃ c rest v, s.inputs = .command c :: rest ∧ s.ready = true ∧
      t = (s.setInputs rest).setEngine v 0#4 .data) ∨
    (∃ c rest r, s.inputs = .command c :: rest ∧ decodeCmd c = .error r ∧
      t = (s.setInputs rest).markRefused r) ∨
    (∃ l, t = s.setInputs l) := by
  unfold hostTurn at h
  split at h
  · rename_i c rest hc
    obtain ⟨v, hr, rfl⟩ | ⟨r, hd, rfl⟩ := offerWord_cases h
    · exact .inl ⟨c, rest, v, hc, hr, rfl⟩
    · exact .inr (.inl ⟨c, rest, r, hc, hd, rfl⟩)
  · exact .inr (.inr ⟨_, by cases h; rfl⟩)
  · exact .inr (.inr ⟨_, by cases h; rfl⟩)
  · exact .inr (.inr ⟨s.inputs, by cases h; rfl⟩)

/-- The line and level that a phase writes (10_state R20). -/
def phaseLine (s : State) : Option (Line × Level) :=
  match s.phase with
  | .idle => none
  | .data => some (.data, msbSet s.w)
  | .sclkH => some (.sclk, true)
  | .sclkL => some (.sclk, false)
  | .latchH => some (.latch, true)
  | .latchL => some (.latch, false)
  | .park => some (.data, false)
  | .reserved => none

/-- The code of a phase makes the line driver write that phase's line. -/
theorem lineDriver_phase {s : State} {l : Line} {b : Level} (h : phaseLine s = some (l, b)) :
    ∃ o, phaseCode s = some o ∧ ∀ u, lineDriver o u = lineWrite l b u := by
  unfold phaseLine at h
  unfold phaseCode
  cases hp : s.phase <;> simp only [hp] at h ⊢ <;> try cases h
  case data =>
    cases hw : msbSet s.w <;> simp only [Bool.false_eq_true, if_true, if_false] <;>
      exact ⟨_, rfl, fun _ => rfl⟩
  all_goals exact ⟨_, rfl, fun _ => rfl⟩

/-- An engine step that writes an output line (41_shift_engine R87 to R92). -/
theorem engineStep_write {park : Bool} {s : State} {l : Line} {b : Level} (h : phaseLine s = some (l, b))
    (hd : s.dir.get l = .output) (hr : s.refusal = none) :
    engineStep park s = .next (advance park ((s.setLevel l b).srReact l (s.level.get l) b)) := by
  obtain ⟨o, ho, hw⟩ := lineDriver_phase h
  simp [engineStep, ho, phaseWrite, hw, lineWrite_out b hd, State.srReact_eq, State.refused, hr]

/-- Everything an engine step can do. -/
theorem engineStep_cases {park : Bool} {s t : State} (h : engineStep park s = .next t) (hr : s.refusal = none) :
    (s.phase = .idle ∧ t = s) ∨
    (s.phase = .reserved ∧ t = s.markRefused (.badPhase 7#3)) ∨
    (∃ l b, phaseLine s = some (l, b) ∧ s.dir.get l ≠ .output ∧ t = s.markRefused (.lineNotOutput l)) ∨
    (∃ l b, phaseLine s = some (l, b) ∧ s.dir.get l = .output ∧
      t = advance park ((s.setLevel l b).srReact l (s.level.get l) b)) := by
  cases hl : phaseLine s with
  | none =>
    cases hp : s.phase <;> simp only [phaseLine, hp] at hl <;> try cases hl
    · simp only [engineStep, phaseCode, hp, if_true] at h
      exact .inl ⟨rfl, by cases h; rfl⟩
    · simp only [engineStep, phaseCode, hp, reduceCtorEq, if_false] at h
      exact .inr (.inl ⟨rfl, by cases h; rfl⟩)
  | some lb =>
    obtain ⟨l, b⟩ := lb
    by_cases hd : s.dir.get l = .output
    · rw [engineStep_write hl hd hr] at h
      exact .inr (.inr (.inr ⟨l, b, rfl, hd, by cases h; rfl⟩))
    · obtain ⟨o, ho, hw⟩ := lineDriver_phase hl
      simp only [engineStep, ho, phaseWrite, hw, lineWrite_notOut b hd] at h
      rw [if_pos (by simp [State.refused])] at h
      exact .inr (.inr (.inl ⟨l, b, rfl, hd, by cases h; rfl⟩))

/-- What a step is, where no `rst` and no power loss comes. -/
theorem stepWith_undisturbed {park : Bool} {s : State} (h : s.undisturbed) : stepWith park s = agentStep park s := by
  unfold State.undisturbed at h
  unfold stepWith
  split <;> simp_all

/-- The inputs that remain after an engine step are the same as before, but for a hold. -/
theorem passHold_eq (s : State) : s.passHold = s.setInputs s.passHold.inputs := by
  unfold State.passHold
  split <;> rfl

/-- Where the engine has its turn, the step is its step. -/
theorem stepWith_engine {park : Bool} {s : State} (h : s.enginesTurn) : stepWith park s = engineStep park s.passHold := by
  obtain ⟨hu, hi, hr, hp⟩ := h
  simp [stepWith_undisturbed hu, agentStep, hi, hr, hp]

/-- Where the host has its turn, the step is its move. -/
theorem stepWith_host {park : Bool} {s : State} (hu : s.undisturbed) (h : s.ready = true) :
    stepWith park s = hostTurn s := by
  obtain ⟨hi, hp, hr⟩ := s.ready_iff.mp h
  simp [stepWith_undisturbed hu, agentStep, hi, hr, hp]

/-- Where every line is an output, each is. -/
theorem State.linesOut_get {s : State} (h : s.linesOut) (l : Line) : s.dir.get l = .output := by
  rw [show s.dir = _ from h]; simp

/-- The engine's step where every line is an output: the phase's line write, then the engine's registers. -/
theorem stepWith_write {park : Bool} {s : State} {l : Line} {b : Level} (ht : s.enginesTurn) (hd : s.linesOut)
    (hl : phaseLine s = some (l, b)) :
    stepWith park s = .next (advance park ((s.passHold.setLevel l b).srReact l (s.level.get l) b)) := by
  have h1 : phaseLine s.passHold = some (l, b) := by simpa [phaseLine] using hl
  rw [stepWith_engine ht, engineStep_write h1 (by simpa using s.linesOut_get hd l) (by simpa using ht.2.2.1)]
  simp

/-- What a step of the engine issues is its phase's code. -/
theorem issued_engine {s : State} (ht : s.enginesTurn) : issued s = phaseCode s := by
  obtain ⟨hu, hi, hr, hn⟩ := ht
  unfold State.undisturbed at hu
  unfold issued
  split <;> simp_all [State.refused]

/-- What the host's turn leaves alone: the lines, the port and the attached register; and the engine's registers unless it
accepts a command. -/
theorem hostTurn_frame {s t : State} (h : hostTurn s = .next t) (hr : s.ready = true) :
    t.initDone = s.initDone ∧ t.level = s.level ∧ t.dir = s.dir ∧ t.portRest = s.portRest ∧
    t.srStore = s.srStore ∧ t.srOut = s.srOut ∧
    (t.phase = .idle ∧ t.w = s.w ∧ t.k = s.k ∨ t.phase = .data ∧ t.k = 0#4 ∧ t.refusal = none) := by
  obtain ⟨hi, hp, hn⟩ := s.ready_iff.mp hr
  obtain ⟨c, rest, v, _, _, rfl⟩ | ⟨c, rest, r, _, _, rfl⟩ | ⟨l, rfl⟩ := hostTurn_cases h <;> simp [hp, hn]

/-- Everything a step can do. -/
theorem stepWith_cases {park : Bool} {s t : State} (h : stepWith park s = .next t) :
    (∃ rest, s.inputs = .reset :: rest ∧ t = (s.setInputs rest).initLines.setEngine 0x00#8 0#4 .idle) ∨
    (∃ d rest, s.inputs = .powerCycle d :: rest ∧ t = powerCycle d (s.setInputs rest)) ∨
    (s.undisturbed ∧ s.initDone = false ∧ t = s.initLines.setEngine 0x00#8 0#4 .idle) ∨
    (s.undisturbed ∧ s.initDone = true ∧ s.refusal ≠ none ∧ ∃ rest, s.inputs = .hold :: rest ∧ t = s.setInputs rest) ∨
    (s.undisturbed ∧ s.ready = true ∧ hostTurn s = .next t) ∨
    (s.enginesTurn ∧ engineStep park s.passHold = .next t) := by
  by_cases hu : s.undisturbed
  · refine .inr (.inr ?_)
    rw [stepWith_undisturbed hu] at h
    unfold agentStep at h
    split at h
    · rename_i hi
      split at h
      · rename_i r hr
        unfold refusedTurn at h
        split at h
        · rename_i rest hin
          exact .inr (.inl ⟨hu, hi, by simp [hr], rest, hin, by cases h; rfl⟩)
        · cases h
      · rename_i hr
        split at h
        · rename_i hp
          exact .inr (.inr (.inl ⟨hu, s.ready_iff.mpr ⟨hi, hp, hr⟩, h⟩))
        · rename_i hp
          exact .inr (.inr (.inr ⟨⟨hu, hi, hr, hp⟩, h⟩))
    · rename_i hi
      exact .inl ⟨hu, by simpa using hi, by cases h; rfl⟩
  · unfold stepWith at h
    split at h
    · rename_i rest hin
      exact .inl ⟨rest, hin, by cases h; rfl⟩
    · rename_i d rest hin
      exact .inr (.inl ⟨d, rest, hin, by cases h; rfl⟩)
    · rename_i h1 h2
      exfalso
      apply hu
      unfold State.undisturbed
      split
      · exact h1 _ ‹_›
      · exact h2 _ _ ‹_›
      · trivial

/-- Runs add up. -/
theorem runWith_add (park : Bool) (m n : Nat) {s t : State} (h : runWith park m s = .next t) :
    runWith park (m + n) s = runWith park n t := by
  induction m generalizing s with
  | zero => cases h; simp
  | succ m ih =>
    rw [Nat.succ_add]
    simp only [runWith] at h ⊢
    cases hs : stepWith park s with
    | next u => rw [hs] at h; exact ih h
    | fault f => rw [hs] at h; cases h
    | refused r => rw [hs] at h; cases h

end Sys2Proof.Machine
end

