-- ==== Sys2Proof/Laws/Timing.lean ====
section
/-! SUPPORT. What one line operation does to the timing premises (70_reset_and_hazards R135, R136). -/
namespace Sys2Proof.Machine

/-- A write of Data, INIT's among them, restarts the setup time and asks nothing. -/
theorem setupHeld_data {tSu : Nat} {lastData : Option Nat} {x : TimedOp} {xs : List TimedOp}
    (hx : x.code = 0b000#3 ∨ x.code = 0b001#3 ∨ x.code = 0b110#3) :
    setupHeld tSu lastData (x :: xs) = setupHeld tSu (some x.time) xs := by
  simp [setupHeld, hx]

/-- A ShiftClock rise asks for the setup time since the last write of Data. -/
theorem setupHeld_rise {tSu : Nat} {lastData : Option Nat} {x : TimedOp} {xs : List TimedOp} (hx : x.code = 0b011#3) :
    setupHeld tSu lastData (x :: xs) = true ↔
      (∀ t, lastData = some t → t + tSu ≤ x.time) ∧ setupHeld tSu lastData xs = true := by
  cases lastData <;> simp [setupHeld, hx]

/-- An operation that writes neither Data nor ShiftClock to high leaves the setup time running. -/
theorem setupHeld_other {tSu : Nat} {lastData : Option Nat} {x : TimedOp} {xs : List TimedOp}
    (hd : ¬ (x.code = 0b000#3 ∨ x.code = 0b001#3 ∨ x.code = 0b110#3)) (hx : x.code ≠ 0b011#3) :
    setupHeld tSu lastData (x :: xs) = setupHeld tSu lastData xs := by
  simp only [setupHeld, if_neg hd, if_neg hx]

/-- A rise starts the pulse, where the line is low. -/
theorem pulseHeld_rise {hi lo : LineCode} {tW : Nat} {x : TimedOp} {xs : List TimedOp} (hx : x.code = hi) :
    pulseHeld hi lo tW none (x :: xs) = pulseHeld hi lo tW (some x.time) xs := by
  simp [pulseHeld, hx]

/-- The line's low code and INIT end a pulse: it must have lasted `tW`, and the next one starts at its own rise. -/
theorem pulseHeld_end {hi lo : LineCode} {tW : Nat} {rose : Option Nat} {x : TimedOp} {xs : List TimedOp}
    (hn : x.code ≠ hi) (hx : x.code = lo ∨ x.code = 0b110#3) :
    pulseHeld hi lo tW rose (x :: xs) = true ↔
      (∀ t, rose = some t → t + tW ≤ x.time) ∧ pulseHeld hi lo tW none xs = true := by
  cases rose <;> simp [pulseHeld, hn, hx]

/-- An operation on another line leaves the pulse running. -/
theorem pulseHeld_other {hi lo : LineCode} {tW : Nat} {rose : Option Nat} {x : TimedOp} {xs : List TimedOp}
    (hn : x.code ≠ hi) (hx : ¬ (x.code = lo ∨ x.code = 0b110#3)) :
    pulseHeld hi lo tW rose (x :: xs) = pulseHeld hi lo tW rose xs := by
  simp only [pulseHeld, if_neg hn, if_neg hx]

end Sys2Proof.Machine
end

