-- ==== Sys2Proof/Machine/Driver.lean ====
section
/-! DEFINITION. The reference host program, the counting driver (42_host_interface R110 to R113). It is outside the block
(00_scope R5): its counter is no part of State (10_state R29), and it only makes the host's moves. -/
namespace Sys2Proof.Machine

/-- The counter after one pass of the inner loop: 254 is followed by 255, at which the loop exits and starts again from 0
(42_host_interface R111, R112). -/
def driverNext (counter : Byte) : Byte :=
  if (counter + 1#8).toNat < Config.countEnd then counter + 1#8 else 0x00#8

/-- The host's moves in one pass: PUSH counter, WAIT 1000 (42_host_interface R111). -/
def driverPass (counter : Byte) : List Input := [.command (pushWord counter), .wait Config.delayMs]

/-- The moves of the first `n` passes from a counter value. The driver itself never ends. -/
def driverLoop : Nat → Byte → List Input
  | 0, _ => []
  | n + 1, counter => driverPass counter ++ driverLoop n (driverNext counter)

/-- The driver after reset: CLEAR once, then the loop from 0 (42_host_interface R110, R111). -/
def driverMoves (n : Nat) : List Input := .command clearWord :: driverLoop n 0x00#8

end Sys2Proof.Machine
end

