-- ==== Sys2Proof/Tests/Slice0.lean ====
section
/-! SUPPORT. Tests: expected results from 95_test_vectors and the encoding tables of 30_encoding, one step each; and for every
obligation with hypotheses, states and operands that meet them. -/
namespace Sys2Proof.Tests
open Sys2Proof.Machine

/-! ## Well-formedness -/

/-- PUSH 256 is rejected (30_encoding R73). -/
theorem test_push_256_ill_formed : (HostLine.push (.dec [2, 5, 6])).wellFormed = false := by decide
theorem test_push_255_well_formed : (HostLine.push (.hex [0xF, 0xF])).wellFormed = true := by decide
/-- A line operation does not stand in a host program (30_encoding R71, R73). -/
theorem test_line_op_ill_formed : (HostLine.lineOp 0b011#3).wellFormed = false := by decide
/-- Every instruction is well-formed: there is no ill-formed term of Instr (30_encoding R62). -/
theorem test_instr_well_formed : (Instr.push 0xFF#8).wellFormed = true ∧ Instr.init.wellFormed = true := by decide

/-! ## Decoding: words written out from 30_encoding R61, R64, R67, R69 -/

theorem test_decode_push : decode (.cmd16 0b1010010100000001#16) = .ok (.push 0xA5#8) := by decide
theorem test_decode_clear : decode (.cmd16 0b0000000000000010#16) = .ok .clear := by decide
theorem test_decode_dataLow : decode (.lineop3 0b000#3) = .ok .dataLow := by decide
theorem test_decode_dataHigh : decode (.lineop3 0b001#3) = .ok .dataHigh := by decide
theorem test_decode_sclkLow : decode (.lineop3 0b010#3) = .ok .sclkLow := by decide
theorem test_decode_sclkHigh : decode (.lineop3 0b011#3) = .ok .sclkHigh := by decide
theorem test_decode_latchLow : decode (.lineop3 0b100#3) = .ok .latchLow := by decide
theorem test_decode_latchHigh : decode (.lineop3 0b101#3) = .ok .latchHigh := by decide
theorem test_decode_init : decode (.lineop3 0b110#3) = .ok .init := by decide
/-- Reserved words of 95_test_vectors 2.1, with the priority of 60_exceptions R118. -/
theorem test_decode_reserved :
    decode (.cmd16 0x0102#16) = .error (.clearImm 0x0102#16) ∧ decode (.cmd16 0x0000#16) = .error (.rsvOp 0x0000#16) ∧
    decode (.cmd16 0xFF0F#16) = .error (.rsvOp 0xFF0F#16) ∧ decode (.cmd16 0x0011#16) = .error (.rsvBits 0x0011#16) ∧
    decode (.cmd16 0x0013#16) = .error (.rsvBits 0x0013#16) ∧ decode (.cmd16 0xFFF2#16) = .error (.rsvBits 0xFFF2#16) ∧
    decode (.lineop3 0b111#3) = .error (.rsvLineop 0b111#3) := by decide
/-- The encoder gives the words of 95_test_vectors 2.1. -/
theorem test_encode : encode (.push 0xFF#8) = .cmd16 0xFF01#16 ∧ encode .clear = .cmd16 0x0002#16 ∧
    encode .latchHigh = .lineop3 0b101#3 := by decide
/-- The opcode table's bits. -/
theorem test_table_words : decodeTableWord 16 0xA501 = some (.push 0xA5#8) ∧ decodeTableWord 8 6 = some .init ∧
    decodeTableWord 8 7 = none ∧ decodeTableWord 16 0x0102 = none := by decide

/-! ## Single steps -/

/-- A state with these lines (Data, ShiftClock, Latch) and attached register, otherwise as after reset. -/
def wired (d c l : Level) (store out : Byte) : State :=
  { State.reset with level := ⟨d, c, l⟩, srStore := store, srOut := out }

/-- The engine in a phase, with `W` and `K`, on the lines of `wired`. -/
def inPhase (p : Phase) (w : Byte) (k : BitCount) (d c l : Level) : State :=
  { wired d c l 0x12#8 0x34#8 with phase := p, w := w, k := k }

/-- `State.reset` with these moves of the outside world to come. -/
def offering (ins : List Input) : State := { State.reset with inputs := ins }

/-- Whether an answer is a next state of which `p` holds. -/
def nextHas (r : Result) (p : State → Bool) : Bool :=
  match r with
  | .next t => p t
  | .fault _ => false
  | .refused _ => false

/-- Whether an answer is a next state with these lines and attached register. -/
def nextWired (r : Result) (d c l : Level) (store out : Byte) : Bool :=
  nextHas r fun t => decide (t.level = ⟨d, c, l⟩ ∧ t.srStore = store ∧ t.srOut = out)

/-- Some draws: a power-up with every line high and the reserved phase. -/
def someDraws : Draws where
  w        := 0x9D#8
  k        := 13#4
  phase    := .reserved
  level    := ⟨true, true, true⟩
  srStore  := 0x5A#8
  srOut    := 0xC3#8
  portRest := 0#Config.portRestW

/-- L1. -/
theorem test_dataHigh : nextWired (exec .dataHigh (wired false false false 0x80#8 0x00#8)) true false false 0x80#8 0x00#8 = true := by
  decide
/-- L2. -/
theorem test_sclkHigh_rising :
    nextWired (exec .sclkHigh (wired true false false 0x80#8 0x00#8)) true true false 0x01#8 0x00#8 = true := by decide
/-- L3. -/
theorem test_sclkHigh_no_edge :
    nextWired (exec .sclkHigh (wired true true false 0x01#8 0x00#8)) true true false 0x01#8 0x00#8 = true := by decide
/-- L4. -/
theorem test_sclkLow : nextWired (exec .sclkLow (wired true true false 0x01#8 0x00#8)) true false false 0x01#8 0x00#8 = true := by
  decide
/-- L5. -/
theorem test_dataLow : nextWired (exec .dataLow (wired true false false 0x01#8 0x00#8)) false false false 0x01#8 0x00#8 = true := by
  decide
/-- L6. -/
theorem test_latchHigh_rising :
    nextWired (exec .latchHigh (wired false false false 0xA5#8 0x00#8)) false false true 0xA5#8 0xA5#8 = true := by decide
/-- L7. -/
theorem test_latchHigh_no_edge :
    nextWired (exec .latchHigh (wired false false true 0x3C#8 0xA5#8)) false false true 0x3C#8 0xA5#8 = true := by decide
/-- L8. -/
theorem test_latchLow :
    nextWired (exec .latchLow (wired false false true 0x3C#8 0xA5#8)) false false false 0x3C#8 0xA5#8 = true := by decide
/-- L10. -/
theorem test_init : nextHas (exec .init (powerUp someDraws [])) (fun t => decide (t.level = ⟨false, false, false⟩ ∧
    t.dir = ⟨.output, .output, .output⟩ ∧ t.initDone = true ∧ t.srStore = 0x5A#8 ∧ t.srOut = 0xC3#8)) = true := by decide
/-- L11. -/
theorem test_reserved_line_op : nextHas (lineDriver 0b111#3 (wired true false true 0x01#8 0x02#8))
    (fun t => t.refused && decide (t.level = ⟨true, false, true⟩ ∧ t.refusal = some (.rsvLineop 0b111#3))) = true := by decide
/-- E1. -/
theorem test_push : nextHas (step (offering [.command 0xA501#16]))
    (fun t => decide (t.w = 0xA5#8 ∧ t.k = 0#4 ∧ t.phase = .data)) = true := by decide
/-- E2. -/
theorem test_clear : nextHas (step (offering [.command 0x0002#16]))
    (fun t => decide (t.w = 0x00#8 ∧ t.k = 0#4 ∧ t.phase = .data)) = true := by decide
/-- E3. -/
theorem test_phase_data_0 : nextHas (step (inPhase .data 0x7F#8 0#4 true false false))
    (fun t => decide (t.level.data = false ∧ t.phase = .sclkH)) = true := by decide
/-- E4. -/
theorem test_phase_data_1 : nextHas (step (inPhase .data 0x80#8 0#4 false false false))
    (fun t => decide (t.level.data = true ∧ t.phase = .sclkH)) = true := by decide
/-- E5. -/
theorem test_phase_sclkL : nextHas (step (inPhase .sclkL 0xA5#8 0#4 true true false))
    (fun t => decide (t.w = 0x4A#8 ∧ t.k = 1#4 ∧ t.phase = .data)) = true := by decide
/-- E6. -/
theorem test_phase_sclkL_last : nextHas (step (inPhase .sclkL 0x80#8 7#4 true true false))
    (fun t => decide (t.w = 0x00#8 ∧ t.k = 8#4 ∧ t.phase = .latchH)) = true := by decide
/-- E8, both readings of `PARK_DATA_LOW`. -/
theorem test_phase_latchL :
    nextHas (stepWith true (inPhase .latchL 0x00#8 8#4 true false true)) (fun t => decide (t.phase = .park)) = true ∧
    nextHas (stepWith false (inPhase .latchL 0x00#8 8#4 true false true)) (fun t => decide (t.phase = .idle)) = true := by decide
/-- E9. -/
theorem test_phase_park : nextHas (step (inPhase .park 0x00#8 8#4 true false false))
    (fun t => decide (t.level.data = false ∧ t.phase = .idle)) = true := by decide
/-- E10. -/
theorem test_phase_reserved : nextHas (step (inPhase .reserved 0x00#8 0#4 false false false))
    (fun t => decide (t.refusal = some (.badPhase 7#3))) = true := by decide
/-- H2. -/
theorem test_power_up : nextHas (step (powerUp someDraws []))
    (fun t => t.ready && decide (t.level = ⟨false, false, false⟩ ∧ t.srStore = 0x5A#8)) = true := by decide
/-- H6. -/
theorem test_reset_keeps_refused :
    nextHas (step { offering [.reset] with refusal := some (.clearImm 0x0102#16) }) (fun t => t.refused && !t.ready) = true := by
  decide
/-- P5: the reserved word. -/
theorem test_refused_word : nextHas (step (offering [.command 0x0102#16]))
    (fun t => decide (t.refusal = some (.clearImm 0x0102#16) ∧ t.phase = .idle) && !t.ready) = true := by decide
/-- H7, H8. -/
theorem test_driver_counter : driverPass 253#8 = [.command 0xFD01#16, .wait 1000] ∧ driverNext 253#8 = 254#8 ∧
    driverNext 254#8 = 0#8 ∧ driverMoves 1 = [.command 0x0002#16, .command 0x0001#16, .wait 1000] := by decide
/-- The assembler's three spellings of one operand (95_test_vectors 2.1), and the pseudo-instructions of 30_encoding R74. -/
theorem test_assembler :
    assembleProgram [.push (.dec [1, 6, 5]), .push (.hex [0xA, 5]), .push (.bin [1, 0, 1, 0, 0, 1, 0, 1])] =
      some [.command 0xA501#16, .command 0xA501#16, .command 0xA501#16] ∧
    assembleProgram [.reset, .clear, .push (.dec [2, 5, 6])] = none ∧
    assembleClearAsPush .clear = some (.command 0x0001#16) ∧
    send true = [.dataHigh, .sclkHigh, .sclkLow] ∧ pulseLatch = [.latchHigh, .latchLow] := by decide
/-- `PUSH 0b101 ; one`, `.word 0x0102`, and a comment alone, as text (30_encoding R73). -/
theorem test_read_line :
    readLine ['P', 'U', 'S', 'H', ' ', '0', 'b', '1', '0', '1', ' ', ';', ' ', 'o', 'n', 'e'] = some [.push (.bin [1, 0, 1])] ∧
    readLine ['.', 'w', 'o', 'r', 'd', ' ', '0', 'x', '0', '1', '0', '2'] = some [.word 0x0102#16] ∧
    readLine [';', 'x'] = some [] ∧ readLine ['P', 'U', 'S', 'H', ' ', '0', 'b', '2'] = none := by decide
/-- A trace that gives Data no time before ShiftClock rises does not hold for a setup time of 1 (70_reset_and_hazards R135), nor
a pulse of no length for a width of 1 (R136). -/
theorem test_timing_premises :
    setupHeld 1 none [⟨5, 0b001#3⟩, ⟨5, 0b011#3⟩] = false ∧ setupHeld 1 none [⟨5, 0b001#3⟩, ⟨6, 0b011#3⟩] = true ∧
    pulseHeld 0b011#3 0b010#3 1 none [⟨6, 0b011#3⟩, ⟨6, 0b010#3⟩] = false := by decide
/-- A pulse that `rst` cuts must be long enough (70_reset_and_hazards R136, 40_line_driver R82), and the next pulse is timed from
its own rise; INIT's write of Data counts for the setup time (R135). -/
theorem test_timing_after_reset :
    pulseHeld 0b011#3 0b010#3 1 none [⟨6, 0b011#3⟩, ⟨6, 0b110#3⟩] = false ∧
    pulseHeld 0b011#3 0b010#3 1 none [⟨6, 0b011#3⟩, ⟨7, 0b110#3⟩, ⟨9, 0b011#3⟩, ⟨9, 0b010#3⟩] = false ∧
    pulseHeld 0b101#3 0b100#3 1 none [⟨6, 0b101#3⟩, ⟨7, 0b110#3⟩, ⟨9, 0b101#3⟩, ⟨10, 0b100#3⟩] = true ∧
    setupHeld 1 none [⟨5, 0b001#3⟩, ⟨6, 0b110#3⟩, ⟨6, 0b011#3⟩] = false := by decide
/-- The codes of 10_state R20 and 60_exceptions R116. -/
theorem test_codes : Phase.park.code = 6#3 ∧ (RefuseReason.lineNotOutput .sclk).code = 5 := by decide
/-- Every table row placed after reset runs (log entry 17). -/
theorem test_placed_rows : ([(16, 0x0001), (16, 0xFF01), (16, 0x0002), (8, 0), (8, 1), (8, 2), (8, 3), (8, 4), (8, 5), (8, 6)].all
    fun p => nextHas (step (State.reset.withFetchWord p.1 p.2)) fun t => !t.refused) = true := by decide
/-- The trace of a push of 0xA5 begins and ends as in 95_test_vectors 2.4. -/
theorem test_push_trace : (pushTrace true 0xA5#8).take 4 = [0b001#3, 0b011#3, 0b010#3, 0b000#3] ∧
    (pushTrace true 0xA5#8).length = pushWrites true ∧ (pushTrace false 0xA5#8).length = pushWrites false := by decide

/-! ## Witnesses: for each obligation with hypotheses, something that meets all of them -/

/-- A refused state. -/
def refusedState (ins : List Input) : State := { offering ins with refusal := some (.rsvOp 0x0000#16) }

theorem witness_CommandWordMap :
    (0x0013#16 &&& 0x00F0#16 ≠ 0#16) ∧ (0xFF01#16 &&& 0x00FF#16 = 0x0001#16) ∧
    (0x0102#16 &&& 0x00FF#16 = 0x0002#16 ∧ 0x0102#16 &&& 0xFF00#16 ≠ 0#16) ∧
    (0xFF0F#16 &&& 0x00F0#16 = 0#16 ∧ 0xFF0F#16 &&& 0x000F#16 ≠ 0x0001#16 ∧ 0xFF0F#16 &&& 0x000F#16 ≠ 0x0002#16) := by decide
theorem witness_CommandWordsWithMeaning : ¬ ∃ i, decodeCmd 0x0000#16 = .ok i := by
  rintro ⟨i, h⟩
  cases h
theorem witness_AssemblerGivesWords : (Numeral.dec [2, 5, 5]).value ≤ 255 ∧ 255 < (Numeral.dec [2, 5, 6]).value := by decide
theorem witness_LineWriteEffect :
    (∀ l, State.reset.dir.get l = .output) ∧ (∀ l, (powerUp someDraws []).dir.get l ≠ .output) := by
  constructor <;> intro l <;> cases l <;> decide
theorem witness_DataLowDrivesData : State.reset.dir.data = .output ∧ (powerUp someDraws []).dir.data ≠ .output ∧
    ((inPhase .data 0x7F#8 0#4 false false false).phase = .data ∧ (inPhase .data 0x7F#8 0#4 false false false).w.getLsbD 7 = false) ∧
    (inPhase .park 0x00#8 8#4 true false false).phase = .park := by decide
theorem witness_DataHighDrivesData : State.reset.dir.data = .output ∧ (powerUp someDraws []).dir.data ≠ .output ∧
    (inPhase .data 0x80#8 0#4 false false false).phase = .data ∧ (inPhase .data 0x80#8 0#4 false false false).w.getLsbD 7 = true := by
  decide
theorem witness_SclkLowDropsClock : (wired true true false 1#8 0#8).dir.sclk = .output ∧
    (powerUp someDraws []).dir.sclk ≠ .output := by decide
/-- The engine in phase SCLK_H, under the invariant. -/
theorem sclkH_meets_inv (park : Bool) : sequencerInv park (inPhase .sclkH 0x80#8 7#4 true false false) := by
  intro _
  exact ⟨rfl, rfl, rfl, by decide, by unfold State.sentBitsGone; decide, by decide⟩
/-- The engine in phase SCLK_L after the eighth rise, under the invariant. -/
theorem sclkL_meets_inv (park : Bool) : sequencerInv park (inPhase .sclkL 0x80#8 7#4 true true false) := by
  intro _
  exact ⟨rfl, rfl, rfl, by decide, by unfold State.sentBitsGone; decide, by decide⟩
/-- The engine in phase LATCH_H, under the invariant. -/
theorem latchH_meets_inv (park : Bool) : sequencerInv park (inPhase .latchH 0x00#8 8#4 true false false) := by
  intro _
  exact ⟨rfl, rfl, rfl, rfl, rfl⟩
/-- After reset, with any inputs, the invariant holds. -/
theorem offering_meets_inv (park : Bool) (ins : List Input) : sequencerInv park (offering ins) := by
  intro _
  exact ⟨rfl, rfl, rfl, fun _ => rfl, rfl, .inl rfl⟩
/-- In these phases the engine has its turn. -/
theorem inPhase_enginesTurn (p : Phase) (hp : p ≠ .idle) (w : Byte) (k : BitCount) (d c l : Level) :
    (inPhase p w k d c l).enginesTurn := ⟨trivial, rfl, rfl, hp⟩
theorem witness_SclkHighShiftsData :
    (State.reset.dir.sclk = .output ∧ State.reset.level.sclk = false) ∧
    ((wired true true false 1#8 0#8).dir.sclk = .output ∧ (wired true true false 1#8 0#8).level.sclk = true) ∧
    (powerUp someDraws []).dir.sclk ≠ .output ∧
    (sequencerInv true (inPhase .sclkH 0x80#8 7#4 true false false) ∧
      (inPhase .sclkH 0x80#8 7#4 true false false).initDone = true ∧
      phaseCode (inPhase .sclkH 0x80#8 7#4 true false false) = some 0b011#3) :=
  ⟨by decide, by decide, by decide, sclkH_meets_inv true, by decide, by decide⟩
theorem witness_LatchLowDropsLatch : (wired false false true 1#8 0#8).dir.latch = .output ∧
    (powerUp someDraws []).dir.latch ≠ .output := by decide
theorem witness_LatchHighCopiesStore :
    (State.reset.dir.latch = .output ∧ State.reset.level.latch = false) ∧
    ((wired false false true 1#8 0#8).dir.latch = .output ∧ (wired false false true 1#8 0#8).level.latch = true) ∧
    (powerUp someDraws []).dir.latch ≠ .output := by decide
theorem witness_InitDrivesLinesLow (h : 0 < Config.portRestW) :
    ∃ p : Fin Config.portW, ∀ l, p ≠ Config.pin l := by
  refine ⟨Config.pinMap ⟨3, by omega⟩, fun l hl => ?_⟩
  cases l <;> exact absurd (congrArg Fin.val (Config.pinMap.injective hl)) (by simp)
theorem witness_LineWriteIdempotent : State.reset.dir.get .latch = .output ∧
    lineWrite .latch true State.reset = .next (wired false false true 0x00#8 0x00#8) ∧
    State.reset.dir.sclk = .output ∧ State.reset.level.sclk = false := ⟨rfl, rfl, rfl, rfl⟩
/-- A powered step; one in which the storage changes; one in which the outputs change. -/
theorem witness_RegisterChangesOnlyOnRises :
    ((offering []).powered ∧ stepWith true (offering []) = .next (offering [])) ∧
    ((inPhase .sclkH 0x80#8 7#4 true false false).powered ∧ nextHas (stepWith true (inPhase .sclkH 0x80#8 7#4 true false false))
      (fun t => decide (t.srStore ≠ 0x12#8)) = true) ∧
    ((inPhase .latchH 0x00#8 8#4 true false false).powered ∧ nextHas (stepWith true (inPhase .latchH 0x00#8 8#4 true false false))
      (fun t => decide (t.srOut ≠ 0x34#8)) = true) :=
  ⟨⟨trivial, rfl⟩, ⟨trivial, by decide⟩, ⟨trivial, by decide⟩⟩
theorem witness_OtherPortBitsKept : (offering []).powered ∧ stepWith false (offering []) = .next (offering []) := ⟨trivial, rfl⟩
theorem witness_OneLineWritePerStep : (inPhase .latchL 0x00#8 8#4 true false true).undisturbed ∧
    (inPhase .latchL 0x00#8 8#4 true false true).initDone = true ∧
    nextHas (stepWith true (inPhase .latchL 0x00#8 8#4 true false true)) (fun t => !t.level.latch) = true :=
  ⟨trivial, rfl, by decide⟩
theorem witness_PushLoadsWorkingValue : State.reset.ready = true := by decide
theorem witness_ClearLoadsZero : State.reset.ready = true := by decide
theorem witness_CommandNeedsReady : (inPhase .park 0x00#8 8#4 true false false).ready = false := by decide
theorem witness_StepRunsOfferedCommand : (offering [.command 0xFF01#16]).ready = true ∧
    (offering [.command 0xFF01#16]).inputs = [.command 0xFF01#16] ∧ decodeCmd 0xFF01#16 = .ok (.push 0xFF#8) := by decide
theorem witness_ReservedWordMarksRefused : (offering [.command 0x0000#16]).ready = true ∧
    (offering [.command 0x0000#16]).inputs = [.command 0x0000#16] ∧ decodeCmd 0x0000#16 = .error (.rsvOp 0x0000#16) := by decide
theorem witness_StepRunsPhaseOperation :
    (inPhase .latchH 0x00#8 8#4 false false false).enginesTurn ∧
    phaseCode (inPhase .latchH 0x00#8 8#4 false false false) = some 0b101#3 ∧ decodeLineOp 0b101#3 = .ok .latchHigh ∧
    ∃ t, exec .latchHigh (inPhase .latchH 0x00#8 8#4 false false false).passHold = .next t :=
  ⟨inPhase_enginesTurn _ (by decide) _ _ _ _ _, by decide, by decide, _, rfl⟩
theorem witness_PlacedInstructionRuns :
    (decodeTableWord 16 0xFF01 = some (.push 0xFF#8) ∧ encode (.push 0xFF#8) = .cmd16 0xFF01#16) ∧
    (decodeTableWord 8 5 = some .latchHigh ∧ encode .latchHigh = .lineop3 0b101#3 ∧ Instr.latchHigh ≠ .init) ∧
    (decodeTableWord 8 6 = some .init ∧ encode .init = .lineop3 0b110#3) := by decide
/-- A push of which one bit is sent, at times on a chip's clock. -/
theorem witness_TimingIsBetweenNeighbours : sequencerInv true (inPhase .sclkH 0x80#8 7#4 true false false) ∧
    [⟨0, 0b011#3⟩, ⟨1, 0b010#3⟩, ⟨2, 0b101#3⟩].map TimedOp.code =
      traceWith true 3 (inPhase .sclkH 0x80#8 7#4 true false false) := ⟨sclkH_meets_inv true, by decide⟩
theorem witness_PhaseDataWritesTopBit : (inPhase .data 0x80#8 0#4 false false false).enginesTurn ∧
    (inPhase .data 0x80#8 0#4 false false false).linesOut :=
  ⟨inPhase_enginesTurn _ (by decide) _ _ _ _ _, rfl⟩
theorem witness_PhaseSclkHShiftsOnce : sequencerInv true (inPhase .sclkH 0x80#8 7#4 true false false) ∧
    (inPhase .sclkH 0x80#8 7#4 true false false).enginesTurn :=
  ⟨sclkH_meets_inv true, inPhase_enginesTurn _ (by decide) _ _ _ _ _⟩
theorem witness_PhaseSclkLCountsBit : sequencerInv true (inPhase .sclkL 0x80#8 7#4 true true false) ∧
    (inPhase .sclkL 0x80#8 7#4 true true false).enginesTurn ∧ (inPhase .sclkL 0x80#8 7#4 true true false).linesOut ∧
    nextHas (stepWith true (inPhase .sclkL 0x80#8 7#4 true true false)) (fun t => decide (t.k = 8#4)) = true :=
  ⟨sclkL_meets_inv true, inPhase_enginesTurn _ (by decide) _ _ _ _ _, rfl, by decide⟩
theorem witness_PhaseLatchHCopiesStore : sequencerInv false (inPhase .latchH 0x00#8 8#4 true false false) ∧
    (inPhase .latchH 0x00#8 8#4 true false false).enginesTurn :=
  ⟨latchH_meets_inv false, inPhase_enginesTurn _ (by decide) _ _ _ _ _⟩
theorem witness_PhaseLatchLEndsPulse : (inPhase .latchL 0x00#8 8#4 true false true).enginesTurn ∧
    (inPhase .latchL 0x00#8 8#4 true false true).linesOut :=
  ⟨inPhase_enginesTurn _ (by decide) _ _ _ _ _, rfl⟩
theorem witness_PhaseParkDrivesDataLow : (inPhase .park 0x00#8 8#4 true false false).enginesTurn ∧
    (inPhase .park 0x00#8 8#4 true false false).linesOut :=
  ⟨inPhase_enginesTurn _ (by decide) _ _ _ _ _, rfl⟩
theorem witness_ReservedPhaseRefused : (inPhase .reserved 0x00#8 0#4 false false false).enginesTurn ∧
    ((offering []).powered ∧ (offering []).phase ≠ .reserved ∧ stepWith true (offering []) = .next (offering [])) :=
  ⟨inPhase_enginesTurn _ (by decide) _ _ _ _ _, trivial, by decide, rfl⟩
theorem witness_EngineNeverStuck : sequencerInv true (inPhase .latchH 0x00#8 8#4 true false false) ∧
    (inPhase .latchH 0x00#8 8#4 true false false).enginesTurn :=
  ⟨latchH_meets_inv true, inPhase_enginesTurn _ (by decide) _ _ _ _ _⟩
theorem witness_HoldAndWaitChangeNothing : ((offering []).ready = true ∧ (offering []).inputs = []) ∧
    ((offering [.hold]).ready = true ∧ (offering [.hold]).inputs = [.hold]) ∧
    ((offering [.wait 1000]).ready = true ∧ (offering [.wait 1000]).inputs = [.wait 1000]) := by decide
/-- A busy engine and a ready one, each with a command to come. -/
theorem witness_HostHoldsWhileBusy :
    (let s : State := { inPhase .park 0x00#8 8#4 true false false with inputs := [.command 0x0002#16] }
     s.ready = false ∧ nextHas (stepWith true s) (fun t => decide (t.inputs = [.command 0x0002#16])) = true) ∧
    ((offering [.command 0x0002#16]).ready = true ∧
     nextHas (stepWith true (offering [.command 0x0002#16])) (fun t => decide (t.inputs = [])) = true) := by decide
/-- A push may start from here: Data high, and a register that holds something. -/
def pushStart (ins : List Input) : State := { wired true false false 0xFF#8 0x3C#8 with inputs := ins }
theorem pushStart_atRest (ins : List Input) : (pushStart ins).atRest := ⟨rfl, rfl, rfl, rfl⟩
theorem witness_PushReachesOutputs : (pushStart [.command 0x0101#16]).atRest ∧ hostHolds [] ∧
    (pushStart [.command 0x0101#16]).inputs = .command (((0x01#8).setWidth 16 <<< 8) ||| 0x0001#16) :: [] :=
  ⟨pushStart_atRest _, trivial, by decide⟩
theorem witness_PushTraceIsProtocol : (pushStart [.command 0xFF01#16, .wait 1000]).atRest ∧ hostHolds [.wait 1000] ∧
    (pushStart [.command 0xFF01#16, .wait 1000]).inputs =
      .command (((0xFF#8).setWidth 16 <<< 8) ||| 0x0001#16) :: [.wait 1000] :=
  ⟨pushStart_atRest _, trivial, by decide⟩
theorem witness_PushLength : (pushStart [.command 0x0001#16]).atRest ∧ hostHolds [] ∧
    (pushStart [.command 0x0001#16]).inputs = .command (((0x00#8).setWidth 16 <<< 8) ||| 0x0001#16) :: [] ∧
    0 < (if true then 27 else 26) := ⟨pushStart_atRest _, trivial, by decide, by decide⟩
theorem witness_OutputsHoldUntilLatch : (pushStart [.command 0x5A01#16]).atRest ∧ hostHolds [] ∧
    (pushStart [.command 0x5A01#16]).inputs = .command (((0x5A#8).setWidth 16 <<< 8) ||| 0x0001#16) :: [] ∧
    27 ≤ (if true then 27 else 26) := ⟨pushStart_atRest _, trivial, by decide, by decide⟩
theorem witness_SecondPushLeavesNoResidue : (pushStart [.command 0x0301#16, .command 0xFF01#16]).atRest ∧ hostHolds [] ∧
    (pushStart [.command 0x0301#16, .command 0xFF01#16]).inputs =
      .command (((0x03#8).setWidth 16 <<< 8) ||| 0x0001#16) :: .command (((0xFF#8).setWidth 16 <<< 8) ||| 0x0001#16) :: [] :=
  ⟨pushStart_atRest _, trivial, by decide⟩
theorem witness_ClearIsPushZero : (pushStart [.command 0x0002#16]).atRest ∧ hostHolds [] ∧
    (pushStart [.command 0x0002#16]).inputs = .command 0x0002#16 :: [] := ⟨pushStart_atRest _, trivial, rfl⟩
/-- H4: `rst` after 8 line writes. -/
theorem witness_ResetAbortsPush :
    (pushStart (.command 0xA501#16 :: (List.replicate 8 .hold ++ [.reset]))).atRest ∧
    (pushStart (.command 0xA501#16 :: (List.replicate 8 .hold ++ [.reset]))).inputs =
      .command (((0xA5#8).setWidth 16 <<< 8) ||| 0x0001#16) :: (List.replicate 8 .hold ++ .reset :: []) ∧
    8 ≤ (if true then 27 else 26) := ⟨pushStart_atRest _, by decide, by decide⟩
theorem witness_LatchOnlyAfterEightBits :
    sequencerInv true (inPhase .latchH 0x00#8 8#4 true false false) ∧ (inPhase .latchH 0x00#8 8#4 true false false).powered ∧
    (inPhase .latchH 0x00#8 8#4 true false false).initDone = true ∧
    (inPhase .latchH 0x00#8 8#4 true false false).level.latch = false ∧
    nextHas (stepWith true (inPhase .latchH 0x00#8 8#4 true false false)) (fun t => t.level.latch) = true ∧
    ∃ t, exec (.push 0x01#8) State.reset = .next t :=
  ⟨latchH_meets_inv true, trivial, rfl, rfl, by decide, _, rfl⟩
theorem witness_RegisterNeverReadBack : stepWith true (offering []) = .next (offering []) := rfl
theorem witness_ResetSequenceStep : (offering [.reset]).inputs = [.reset] ∧
    ((powerUp someDraws []).initDone = false ∧ (powerUp someDraws []).undisturbed) := ⟨rfl, rfl, trivial⟩
theorem witness_ResetMakesReady : (offering [.reset]).inputs = [.reset] ∧ stepWith true (offering [.reset]) = .next (offering []) :=
  ⟨rfl, rfl⟩
theorem witness_PowerUpRunsReset : (powerUp someDraws [.command 0x0002#16]).undisturbed := trivial
/-- A step that keeps `init_done`, one that sets it, and one that clears it. -/
theorem witness_InitDoneKept :
    ((offering []).powered ∧ (offering []).initDone = true ∧ stepWith true (offering []) = .next (offering [])) ∧
    ((powerUp someDraws []).initDone = false ∧ nextHas (stepWith true (powerUp someDraws [])) (fun t => t.initDone) = true) ∧
    (¬ (offering [.powerCycle someDraws]).powered ∧
      stepWith true (offering [.powerCycle someDraws]) = .next (powerUp someDraws [])) :=
  ⟨⟨trivial, rfl, rfl⟩, ⟨rfl, by decide⟩, fun h => h, rfl⟩
theorem witness_RefusedIsSticky : (refusedState [.hold]).refused = true ∧
    stepWith true (refusedState [.hold]) = .next (refusedState []) ∧
    (refusedState [.hold]).initDone = true ∧ (refusedState [.hold]).undisturbed := ⟨rfl, rfl, rfl, trivial⟩
theorem witness_RefusedRunStops : (refusedState [.command 0x0101#16]).initDone = true ∧
    (refusedState [.command 0x0101#16]).refusal = some (.rsvOp 0x0000#16) ∧ hostHolds (refusedState [.command 0x0101#16]).inputs :=
  ⟨rfl, rfl, trivial⟩
theorem witness_OnlyReservedWordsRefused : sequencerInv true (offering [.command 0x0000#16]) ∧
    (offering [.command 0x0000#16]).refusal = none ∧
    stepWith true (offering [.command 0x0000#16]) = .next (refusedState []) ∧
    (refusedState []).refusal = some (.rsvOp 0x0000#16) := ⟨offering_meets_inv true _, rfl, rfl, rfl⟩
theorem witness_StepKeepsSequencerInv : sequencerInv Config.parkDataLow (offering []) ∧ step (offering []) = .next (offering []) :=
  ⟨offering_meets_inv _ _, rfl⟩
/-- A run of one step from power-up to IDLE. -/
theorem witness_LinesIdleInEveryRun :
    nextHas (runWith true 1 (powerUp someDraws [])) (fun t => t.initDone && decide (t.phase = .idle)) = true := by decide

end Sys2Proof.Tests
end

section
/-! The levels in a step: an undisturbed step of an initialized system writes the line of its phase, or none (00_scope R9). -/
namespace Sys2Proof.Machine

/-- After its line write a phase touches the engine's three registers only (41_shift_engine R87 to R93). -/
theorem advance_eq_setEngine (park : Bool) (s : State) : ∃ w k p, advance park s = s.setEngine w k p := by
  cases hp : s.phase <;> simp only [advance, hp]
  case idle | reserved => exact ⟨s.w, s.k, s.phase, rfl⟩
  all_goals exact ⟨_, _, _, rfl⟩

@[simp] theorem advance_level (park : Bool) (s : State) : (advance park s).level = s.level := by
  obtain ⟨w, k, p, h⟩ := advance_eq_setEngine park s
  rw [h, State.setEngine_level]

@[simp] theorem State.srReact_level (s : State) (l : Line) (old b : Level) : (s.srReact l old b).level = s.level := by
  rw [State.srReact_eq]

@[simp] theorem phaseLine_passHold (s : State) : phaseLine s.passHold = phaseLine s := by
  simp [phaseLine]

/-- An engine step leaves every level, or writes the level of its phase's line. -/
theorem engineStep_level {park : Bool} {s t : State} (h : engineStep park s = .next t) (hr : s.refusal = none) :
    t.level = s.level ∨ ∃ l b, phaseLine s = some (l, b) ∧ t.level = s.level.set l b := by
  obtain ⟨-, rfl⟩ | ⟨-, rfl⟩ | ⟨l, b, -, -, rfl⟩ | ⟨l, b, hl, -, rfl⟩ := engineStep_cases h hr
  · exact .inl rfl
  · exact .inl rfl
  · exact .inl rfl
  · exact .inr ⟨l, b, hl, by simp⟩

/-- An undisturbed step of an initialized system leaves every level, or is the engine's and writes the level of its phase's
line. -/
theorem stepWith_level {park : Bool} {s t : State} (hu : s.undisturbed) (hi : s.initDone = true)
    (h : stepWith park s = .next t) :
    t.level = s.level ∨ s.enginesTurn ∧ ∃ l b, phaseLine s = some (l, b) ∧ t.level = s.level.set l b := by
  obtain ⟨rest, hin, -⟩ | ⟨d, rest, hin, -⟩ | ⟨-, hi', -⟩ | ⟨-, -, -, rest, -, rfl⟩ | ⟨-, hready, hhost⟩ | ⟨hturn, heng⟩ :=
    stepWith_cases h
  · simp [State.undisturbed, hin] at hu
  · simp [State.undisturbed, hin] at hu
  · simp [hi] at hi'
  · exact .inl rfl
  · obtain ⟨-, hlevel, -⟩ := hostTurn_frame hhost hready
    exact .inl hlevel
  · have ⟨_, _, hr, _⟩ := hturn
    have hwrite := engineStep_level heng (by simpa using hr)
    simp only [State.passHold_level, phaseLine_passHold] at hwrite
    exact hwrite.imp_right fun hset => ⟨hturn, hset⟩

/-- Settles O19: the one line is that of the engine's phase, where the step writes one. -/
theorem oneLineWritePerStep : Obligations.OneLineWritePerStep := by
  intro park s t hu hi h
  obtain hkept | ⟨-, l, b, -, hset⟩ := stepWith_level hu hi h
  · exact ⟨.data, fun l' _ => by rw [hkept]⟩
  · exact ⟨l, fun l' hne => by rw [hset, PerLine.get_set_other s.level b hne]⟩

end Sys2Proof.Machine
end

section
/-! The state in a step: what every step keeps of the port, of `init_done` and of the mark `refused` (10_state R21, R26, R28),
and the sequencer's invariant, kept by every step and so met in every run (10_state R30). -/
namespace Sys2Proof.Machine

/-! ### Frames of the engine's step -/

@[simp] theorem advance_initDone (park : Bool) (s : State) : (advance park s).initDone = s.initDone := by
  obtain ⟨w, k, p, h⟩ := advance_eq_setEngine park s
  rw [h, State.setEngine_initDone]

@[simp] theorem advance_dir (park : Bool) (s : State) : (advance park s).dir = s.dir := by
  obtain ⟨w, k, p, h⟩ := advance_eq_setEngine park s
  rw [h, State.setEngine_dir]

@[simp] theorem advance_portRest (park : Bool) (s : State) : (advance park s).portRest = s.portRest := by
  obtain ⟨w, k, p, h⟩ := advance_eq_setEngine park s
  rw [h, State.setEngine_portRest]

@[simp] theorem State.srReact_initDone (s : State) (l : Line) (old b : Level) :
    (s.srReact l old b).initDone = s.initDone := by
  rw [State.srReact_eq]

@[simp] theorem State.srReact_dir (s : State) (l : Line) (old b : Level) : (s.srReact l old b).dir = s.dir := by
  rw [State.srReact_eq]

@[simp] theorem State.srReact_portRest (s : State) (l : Line) (old b : Level) :
    (s.srReact l old b).portRest = s.portRest := by
  rw [State.srReact_eq]

@[simp] theorem State.srReact_w (s : State) (l : Line) (old b : Level) : (s.srReact l old b).w = s.w := by
  rw [State.srReact_eq]

@[simp] theorem State.srReact_k (s : State) (l : Line) (old b : Level) : (s.srReact l old b).k = s.k := by
  rw [State.srReact_eq]

@[simp] theorem State.srReact_phase (s : State) (l : Line) (old b : Level) : (s.srReact l old b).phase = s.phase := by
  rw [State.srReact_eq]

/-- A write of 0 is no rising edge: the attached register does not react (20_memory R42). -/
@[simp] theorem State.srReact_low (s : State) (l : Line) (old : Level) : s.srReact l old false = s := by
  simp [State.srReact_eq]

/-- What the engine's step leaves alone: `init_done`, the directions and the port's other bits. -/
theorem engineStep_frame {park : Bool} {s t : State} (h : engineStep park s = .next t) (hr : s.refusal = none) :
    t.initDone = s.initDone ∧ t.dir = s.dir ∧ t.portRest = s.portRest := by
  obtain ⟨-, rfl⟩ | ⟨-, rfl⟩ | ⟨l, b, -, -, rfl⟩ | ⟨l, b, -, -, rfl⟩ := engineStep_cases h hr <;> simp

/-! ### The reset sequence and the power loss -/

/-- A power-up's step is the reset sequence (70_reset_and_hazards R128, R129). -/
theorem stepWith_resetDue {park : Bool} {s : State} (hu : s.undisturbed) (hi : s.initDone = false) :
    stepWith park s = .next (s.initLines.setEngine 0x00#8 0#4 .idle) := by
  simp [stepWith_undisturbed hu, agentStep, hi, resetSequence_eq]

theorem issued_of_reset {s : State} {rest : List Input} (h : s.inputs = .reset :: rest) :
    issued s = some 0b110#3 := by
  simp [issued, h]

theorem issued_of_powerCycle {s : State} {d : Draws} {rest : List Input} (h : s.inputs = .powerCycle d :: rest) :
    issued s = none := by
  simp [issued, h]

/-- Where no `rst` and no power loss comes, the step issues INIT if it is due, nothing after a refusal, and else its phase's
code. -/
theorem issued_undisturbed {s : State} (hu : s.undisturbed) :
    issued s = if s.initDone then (if s.refused then none else phaseCode s) else some 0b110#3 := by
  unfold State.undisturbed at hu
  unfold issued
  split
  · simp_all
  · simp_all
  · rfl

theorem powered_of_undisturbed {s : State} (hu : s.undisturbed) : s.powered := by
  unfold State.undisturbed at hu
  unfold State.powered
  split
  · simp_all
  · trivial

theorem powered_of_reset {s : State} {rest : List Input} (h : s.inputs = .reset :: rest) : s.powered := by
  simp [State.powered, h]

theorem not_powered_of_powerCycle {s : State} {d : Draws} {rest : List Input} (h : s.inputs = .powerCycle d :: rest) :
    ¬ s.powered := by
  simp [State.powered, h]

/-! ### What every step keeps -/

/-- A step without a power loss keeps the port's other bits. -/
theorem stepWith_portRest {park : Bool} {s t : State} (hp : s.powered) (h : stepWith park s = .next t) :
    t.portRest = s.portRest := by
  obtain ⟨rest, -, rfl⟩ | ⟨d, rest, hin, -⟩ | ⟨-, -, rfl⟩ | ⟨-, -, -, rest, -, rfl⟩ | ⟨-, hready, hhost⟩ |
    ⟨⟨-, -, hr, -⟩, heng⟩ := stepWith_cases h
  · rfl
  · exact absurd hp (not_powered_of_powerCycle hin)
  · rfl
  · rfl
  · obtain ⟨-, -, -, hport, -⟩ := hostTurn_frame hhost hready
    exact hport
  · obtain ⟨-, -, hport⟩ := engineStep_frame heng (by simpa using hr)
    simpa using hport

/-- Settles O18: the other bits of the port are `portRest`, which only a power loss draws anew. -/
theorem otherPortBitsKept : Obligations.OtherPortBitsKept := by
  intro park s t hp h
  have hport := stepWith_portRest hp h
  exact ⟨hport, fun p hother => State.portBit_other s t p hother hport⟩

/-- A step without a power loss leaves `init_done` = 1 where it was, or where the step issues INIT; a power loss clears it. -/
theorem stepWith_initDone {park : Bool} {s t : State} (h : stepWith park s = .next t) :
    (s.powered ∧ issued s = some 0b110#3 ∧ t.initDone = true) ∨ (¬ s.powered ∧ t.initDone = false) ∨
    (s.powered ∧ t.initDone = s.initDone) := by
  obtain ⟨rest, hin, rfl⟩ | ⟨d, rest, hin, rfl⟩ | ⟨hu, hi, rfl⟩ | ⟨hu, -, -, rest, -, rfl⟩ | ⟨hu, hready, hhost⟩ |
    ⟨⟨hu, -, hr, -⟩, heng⟩ := stepWith_cases h
  · exact .inl ⟨powered_of_reset hin, issued_of_reset hin, rfl⟩
  · exact .inr (.inl ⟨not_powered_of_powerCycle hin, rfl⟩)
  · exact .inl ⟨powered_of_undisturbed hu, by simp [issued_undisturbed hu, hi], rfl⟩
  · exact .inr (.inr ⟨powered_of_undisturbed hu, rfl⟩)
  · obtain ⟨hinit, -⟩ := hostTurn_frame hhost hready
    exact .inr (.inr ⟨powered_of_undisturbed hu, hinit⟩)
  · obtain ⟨hinit, -, -⟩ := engineStep_frame heng (by simpa using hr)
    exact .inr (.inr ⟨powered_of_undisturbed hu, by simpa using hinit⟩)

/-- Settles O49: each step issues INIT, loses the power, or leaves `init_done` as it was. -/
theorem initDoneKept : Obligations.InitDoneKept := by
  intro park s t h
  obtain ⟨hp, hissued, ht⟩ | ⟨hp, ht⟩ | ⟨hp, ht⟩ := stepWith_initDone h
  · exact ⟨fun _ _ => ht, fun _ _ => hissued, fun hn => absurd hp hn⟩
  · exact ⟨fun hp' => absurd hp' hp, fun _ ht' => by simp [ht] at ht', fun _ => ht⟩
  · exact ⟨fun _ hi => by rw [ht, hi], fun hi ht' => by simp [ht, hi] at ht', fun hn => absurd hp hn⟩

/-! ### After a refusal -/

theorem ready_of_refusal {s : State} (h : s.refusal ≠ none) : s.ready = false := by
  simp [State.ready, s.refused_eq_true.mpr h]

/-- Everything a step from a refused state can do: the reset sequence, asked for or due; a power loss; or a hold. -/
theorem stepWith_refused_cases {park : Bool} {s t : State} (hr : s.refused = true) (h : stepWith park s = .next t) :
    (∃ rest, s.inputs = .reset :: rest ∧ t = (s.setInputs rest).initLines.setEngine 0x00#8 0#4 .idle) ∨
    (∃ d rest, s.inputs = .powerCycle d :: rest ∧ t = powerCycle d (s.setInputs rest)) ∨
    (s.undisturbed ∧ s.initDone = false ∧ t = s.initLines.setEngine 0x00#8 0#4 .idle) ∨
    (s.undisturbed ∧ s.initDone = true ∧ ∃ rest, s.inputs = .hold :: rest ∧ t = s.setInputs rest) := by
  have hsome : s.refusal ≠ none := s.refused_eq_true.mp hr
  obtain hreset | hpower | hdue | ⟨hu, hi, -, hhold⟩ | ⟨-, hready, -⟩ | ⟨⟨-, -, hnone, -⟩, -⟩ := stepWith_cases h
  · exact .inl hreset
  · exact .inr (.inl hpower)
  · exact .inr (.inr (.inl hdue))
  · exact .inr (.inr (.inr ⟨hu, hi, hhold⟩))
  · simp [ready_of_refusal hsome] at hready
  · exact absurd hnone hsome

/-- Settles O50: none of the four steps of a refused state touches the mark, and the hold touches nothing else either. -/
theorem refusedIsSticky : Obligations.RefusedIsSticky := by
  intro park s t hr h
  have hcases := stepWith_refused_cases hr h
  have hkept : t.refusal = s.refusal := by
    obtain ⟨rest, -, rfl⟩ | ⟨d, rest, -, rfl⟩ | ⟨-, -, rfl⟩ | ⟨-, -, rest, -, rfl⟩ := hcases <;> rfl
  refine ⟨hkept, ready_of_refusal (hkept ▸ s.refused_eq_true.mp hr), fun hi => ?_, fun hi hu => ?_⟩
  · obtain ⟨rest, hin, -⟩ | ⟨d, rest, hin, -⟩ | ⟨-, hi', -⟩ | ⟨hu, -, -⟩ := hcases
    · exact .inr (issued_of_reset hin)
    · exact .inl (issued_of_powerCycle hin)
    · simp [hi] at hi'
    · exact .inl (by simp [issued_undisturbed hu, hi, hr])
  · obtain ⟨rest, hin, -⟩ | ⟨d, rest, hin, -⟩ | ⟨-, hi', -⟩ | ⟨-, -, hhold⟩ := hcases
    · simp [State.undisturbed, hin] at hu
    · simp [State.undisturbed, hin] at hu
    · simp [hi] at hi'
    · exact hhold

/-! ### The sequencer's invariant -/

@[simp] theorem sequencerInv_setInputs (park : Bool) (s : State) (l : List Input) :
    sequencerInv park (s.setInputs l) ↔ sequencerInv park s := Iff.rfl

@[simp] theorem sequencerInv_markRefused (park : Bool) (s : State) (r : RefuseReason) :
    sequencerInv park (s.markRefused r) ↔ sequencerInv park s := Iff.rfl

@[simp] theorem sequencerInv_passHold (park : Bool) (s : State) :
    sequencerInv park s.passHold ↔ sequencerInv park s := by
  rw [passHold_eq, sequencerInv_setInputs]

/-- After the reset sequence the invariant holds, whatever the state before it (70_reset_and_hazards R130). -/
theorem sequencerInv_resetSequence (park : Bool) (s : State) :
    sequencerInv park (s.initLines.setEngine 0x00#8 0#4 .idle) :=
  fun _ => ⟨rfl, rfl, rfl, fun _ => rfl, rfl, .inl rfl⟩

/-- Before initialization, as after a power loss, the invariant asks nothing (10_state R21). -/
theorem sequencerInv_of_not_initDone (park : Bool) {s : State} (h : s.initDone = false) : sequencerInv park s := by
  intro hi
  simp [h] at hi

/-- Accepting a command starts a push: no bit is sent, and the lines are as IDLE left them (41_shift_engine R85). -/
theorem sequencerInv_accept {park : Bool} {s : State} (v : Byte) (hinv : sequencerInv park s) (hready : s.ready = true) :
    sequencerInv park (s.setEngine v 0#4 .data) := by
  intro _
  obtain ⟨hi, hp, -⟩ := s.ready_iff.mp hready
  obtain ⟨hout, hphase⟩ := hinv hi
  simp only [phaseInv, hp] at hphase
  obtain ⟨hsclk, hlatch, -⟩ := hphase
  exact ⟨hout, hsclk, hlatch, (by decide : 0#4 < 8#4), Nat.mod_one _⟩

/-- The host's turn keeps the invariant. -/
theorem hostTurn_keeps_sequencerInv {park : Bool} {s t : State} (hinv : sequencerInv park s) (hready : s.ready = true)
    (h : hostTurn s = .next t) : sequencerInv park t := by
  obtain ⟨c, rest, v, -, -, rfl⟩ | ⟨c, rest, r, -, -, rfl⟩ | ⟨l, rfl⟩ := hostTurn_cases h
  · exact sequencerInv_accept v (by simpa using hinv) (by simpa using hready)
  · simpa using hinv
  · simpa using hinv

/-- One more shift, one more low bit gone: `2 w` is a multiple of `2 ^ (k + 1)` where `w` is one of `2 ^ k`
(41_shift_engine R89, R100). -/
theorem shiftLeft_bitsGone {w : Byte} {k : BitCount} (hk : k < 8#4) (h : w.toNat % 2 ^ k.toNat = 0) :
    (shiftLeft w).toNat % 2 ^ (k + 1#4).toNat = 0 := by
  have hsucc : (k + 1#4).toNat = k.toNat + 1 := by bv_omega
  have hdvd : 2 ^ (k.toNat + 1) ∣ 2 ^ 8 := Nat.pow_dvd_pow 2 (by bv_omega)
  have hdouble : (shiftLeft w).toNat = w.toNat * 2 % 2 ^ 8 := by
    simp [shiftLeft, Nat.shiftLeft_eq]
  rw [hsucc, hdouble, Nat.mod_mod_of_dvd _ hdvd, Nat.pow_succ, Nat.mul_mod_mul_right, h, Nat.zero_mul]

/-- When eight bits are gone the working value is 0 (41_shift_engine R100). -/
theorem eq_zero_of_eightBitsGone {w : Byte} (h : w.toNat % 2 ^ (8#4).toNat = 0) : w = 0x00#8 := by
  apply BitVec.eq_of_toNat_eq
  exact (Nat.mod_eq_of_lt w.isLt).symm.trans h

/-- Each phase's write and its move of the engine's registers lead from its condition to the next phase's
(41_shift_engine R87 to R92). -/
theorem phaseInv_advance {park : Bool} {s : State} {l : Line} {b : Level} (hl : phaseLine s = some (l, b))
    (hinv : phaseInv park s) : phaseInv park (advance park ((s.setLevel l b).srReact l (s.level.get l) b)) := by
  cases hp : s.phase <;> simp only [phaseLine, phaseInv, hp, reduceCtorEq, Option.some.injEq, Prod.mk.injEq] at hl hinv <;>
    obtain ⟨rfl, rfl⟩ := hl <;>
    simp only [advance, State.srReact_phase, State.srReact_w, State.srReact_k, State.srReact_low, State.setLevel_phase,
      State.setLevel_w, State.setLevel_k, hp]
  case data =>
    obtain ⟨hsclk, hlatch, hk, hgone⟩ := hinv
    exact ⟨hsclk, hlatch, hk, hgone, msbSet_eq s.w⟩
  case sclkH =>
    obtain ⟨hsclk, hlatch, hk, hgone, hdata⟩ := hinv
    rw [PerLine.get_sclk, hsclk]
    exact ⟨rfl, hlatch, hk, hgone, hdata⟩
  case sclkL =>
    obtain ⟨-, hlatch, hk, hgone, -⟩ := hinv
    have hgone' := shiftLeft_bitsGone hk hgone
    split
    next hlast => exact ⟨rfl, hlatch, hlast, eq_zero_of_eightBitsGone (hlast ▸ hgone')⟩
    next hmore =>
      have hmore : s.k + 1#4 ≠ 8#4 := hmore
      exact ⟨rfl, hlatch, (by bv_omega : s.k + 1#4 < 8#4), hgone'⟩
  case latchH =>
    obtain ⟨hsclk, hlatch, hk, hw⟩ := hinv
    rw [PerLine.get_latch, hlatch]
    exact ⟨hsclk, rfl, hk, hw, rfl⟩
  case latchL =>
    obtain ⟨hsclk, -, hk, hw, hout⟩ := hinv
    cases park
    · exact ⟨hsclk, rfl, fun h => absurd h Bool.false_ne_true, hw, .inr hk⟩
    · exact ⟨rfl, hsclk, rfl, hk, hw, hout⟩
  case park =>
    obtain ⟨-, hsclk, hlatch, hk, hw, -⟩ := hinv
    exact ⟨hsclk, hlatch, fun _ => rfl, hw, .inr hk⟩

/-- The engine's step keeps the invariant. -/
theorem engineStep_keeps_sequencerInv {park : Bool} {s t : State} (hinv : sequencerInv park s) (hr : s.refusal = none)
    (h : engineStep park s = .next t) : sequencerInv park t := by
  obtain ⟨-, rfl⟩ | ⟨-, rfl⟩ | ⟨l, b, -, -, rfl⟩ | ⟨l, b, hl, -, rfl⟩ := engineStep_cases h hr
  · exact hinv
  · exact hinv
  · exact hinv
  · intro hi
    obtain ⟨hout, hphase⟩ := hinv (by simpa using hi)
    exact ⟨by simpa [State.linesOut] using hout, phaseInv_advance hl hphase⟩

/-- Every step keeps the sequencer's invariant, whatever the outside world does in it. -/
theorem stepWith_keeps_sequencerInv {park : Bool} {s t : State} (hinv : sequencerInv park s)
    (h : stepWith park s = .next t) : sequencerInv park t := by
  obtain ⟨rest, -, rfl⟩ | ⟨d, rest, -, rfl⟩ | ⟨-, -, rfl⟩ | ⟨-, -, -, rest, -, rfl⟩ | ⟨-, hready, hhost⟩ |
    ⟨⟨-, -, hr, -⟩, heng⟩ := stepWith_cases h
  · exact sequencerInv_resetSequence park _
  · exact sequencerInv_of_not_initDone park rfl
  · exact sequencerInv_resetSequence park s
  · exact (sequencerInv_setInputs park s rest).mpr hinv
  · exact hostTurn_keeps_sequencerInv hinv hready hhost
  · exact engineStep_keeps_sequencerInv ((sequencerInv_passHold park s).mpr hinv) (by simpa using hr) heng

/-- Settles O53, by the cases of a step: a reset establishes the invariant, a power loss makes it void, and the host and the
engine lead from each phase's condition to the next one's. -/
theorem stepKeepsSequencerInv : Obligations.StepKeepsSequencerInv :=
  ⟨fun _ _ _ => stepWith_keeps_sequencerInv, fun _ _ => stepWith_keeps_sequencerInv⟩

/-! ### Runs from power-up -/

/-- What every step keeps, every run keeps. -/
theorem runWith_induction {park : Bool} {P : State → Prop} (hstep : ∀ s t, P s → stepWith park s = .next t → P t)
    {n : Nat} {s t : State} (hs : P s) (h : runWith park n s = .next t) : P t := by
  induction n generalizing s with
  | zero => cases h; exact hs
  | succ n ih =>
    simp only [runWith] at h
    cases hu : stepWith park s with
    | next u => rw [hu] at h; exact ih (hstep s u hs hu) h
    | fault f => rw [hu] at h; cases h
    | refused r => rw [hu] at h; cases h

/-- The invariant holds in every run from every power-up. -/
theorem sequencerInv_of_powerUp {park : Bool} {d : Draws} {ins : List Input} {n : Nat} {t : State}
    (h : runWith park n (powerUp d ins) = .next t) : sequencerInv park t :=
  runWith_induction (fun _ _ => stepWith_keeps_sequencerInv) (sequencerInv_of_not_initDone park rfl) h

/-- The invariant implies the line-idle condition of an initialized IDLE state (10_state R30). -/
theorem linesIdle_of_sequencerInv {park : Bool} {s : State} (hinv : sequencerInv park s) (hi : s.initDone = true)
    (hp : s.phase = .idle) : s.linesIdle park := by
  obtain ⟨hout, hphase⟩ := hinv hi
  simp only [phaseInv, hp] at hphase
  obtain ⟨hsclk, hlatch, hdata, -⟩ := hphase
  exact ⟨hsclk, hlatch, hdata, hout⟩

/-- Settles O55: the invariant of O53 holds where the run stands. -/
theorem linesIdleInEveryRun : Obligations.LinesIdleInEveryRun :=
  fun _ _ _ _ _ h hi hp => linesIdle_of_sequencerInv (sequencerInv_of_powerUp h) hi hp

/-- Settles O48: at power-up `init_done` = 0, so the reset sequence is due, and it keeps three of the draws only. -/
theorem powerUpRunsReset : Obligations.PowerUpRunsReset :=
  fun _ _ _ hu => ⟨rfl, stepWith_resetDue hu rfl⟩

end Sys2Proof.Machine
end

section
/-! The attached register: what a line write does to it and to the port (20_memory R41 to R45, R50), in which steps it changes,
and that no step reads it (20_memory R40). -/
namespace Sys2Proof

@[simp] theorem PerLine.set_get_self {α : Type} (p : PerLine α) (l : Line) : p.set l (p.get l) = p := by
  cases l <;> rfl

namespace Machine

/-! ### One line write -/

/-- Where the levels differ on one line only, and the port's other bits not at all, no port bit but that line's differs
(10_state R26). -/
theorem State.portBit_of_ne_pin {s t : State} {l : Line} (hlevel : ∀ l', l' ≠ l → t.level.get l' = s.level.get l')
    (hrest : t.portRest = s.portRest) {p : Fin Config.portW} (hp : p ≠ Config.pin l) : t.portBit p = s.portBit p := by
  by_cases hline : ∃ l', p = Config.pin l'
  · obtain ⟨l', rfl⟩ := hline
    rw [State.portBit_pin, State.portBit_pin]
    exact hlevel l' fun h => hp (by rw [h])
  · exact State.portBit_other s t p (fun l' h => hline ⟨l', h⟩) hrest

@[simp] theorem State.srReact_refusal (s : State) (l : Line) (old b : Level) :
    (s.srReact l old b).refusal = s.refusal := by
  rw [State.srReact_eq]

@[simp] theorem State.srReact_inputs (s : State) (l : Line) (old b : Level) :
    (s.srReact l old b).inputs = s.inputs := by
  rw [State.srReact_eq]

/-- The storage after a line write: a rise of ShiftClock shifts in the level of Data, which that write leaves (20_memory R43). -/
theorem srStore_lineWrite (l : Line) (b : Level) (s : State) :
    ((s.setLevel l b).srReact l (s.level.get l) b).srStore =
      if l = .sclk ∧ s.level.sclk = false ∧ b = true then BitVec.ofNat 8 (2 * s.srStore.toNat + s.level.data.toNat)
      else s.srStore := by
  rw [State.srReact_eq, ← shiftIn_eq]
  cases l <;> simp

/-- The outputs after a line write: a rise of Latch copies the storage to them (20_memory R44). -/
theorem srOut_lineWrite (l : Line) (b : Level) (s : State) :
    ((s.setLevel l b).srReact l (s.level.get l) b).srOut =
      if l = .latch ∧ s.level.latch = false ∧ b = true then s.srStore else s.srOut := by
  rw [State.srReact_eq]
  cases l <;> simp

/-- Settles O7: a refused write only sets the mark; any other sets the level, and so the line's port bit, and the register
reacts. -/
theorem lineWriteEffect : Obligations.LineWriteEffect := by
  intro l b s
  refine ⟨fun hd => lineWrite_notOut b hd, fun hd => ⟨_, lineWrite_out b hd, ?_⟩⟩
  have hlevel : ∀ l', l' ≠ l →
      ((s.setLevel l b).srReact l (s.level.get l) b).level.get l' = s.level.get l' :=
    fun l' hne => by simp [hne]
  refine ⟨by simp, hlevel, by simp [State.portBit_pin], fun p hp => State.portBit_of_ne_pin hlevel (by simp) hp,
    srStore_lineWrite l b s, srOut_lineWrite l b s, ?_⟩
  simp

/-! ### Line writes in a row -/

/-- A write of the level that the line has is no rising edge: the attached register does not react (20_memory R42). -/
@[simp] theorem State.srReact_same (s : State) (l : Line) (b : Level) : s.srReact l b b = s := by
  cases l <;> cases b <;> rfl

/-- A write of the level that an output line has already changes nothing (20_memory R50). -/
theorem lineWrite_of_level_eq {l : Line} {b : Level} {s : State} (hd : s.dir.get l = .output)
    (hl : s.level.get l = b) : lineWrite l b s = .next s := by
  have hset : s.setLevel l b = s := by simp [State.setLevel, ← hl]
  rw [lineWrite_out b hd, hset, hl, State.srReact_same]

/-- One ShiftClock pulse from ShiftClock low shifts the storage once, with the level of Data, and leaves all else
(20_memory R43). -/
theorem sclkPulse_shifts {s : State} (hd : s.dir.sclk = .output) (hl : s.level.sclk = false) :
    ∃ t, exec .sclkHigh s = .next t ∧
      exec .sclkLow t = .next { s with srStore := BitVec.ofNat 8 (2 * s.srStore.toNat + s.level.data.toNat) } := by
  obtain ⟨w, k, phase, initDone, ⟨data, sclk, latch⟩, dir, portRest, srStore, srOut, refusal, inputs⟩ := s
  subst (hl : sclk = false)
  refine ⟨_, lineWrite_out true hd, (lineWrite_out false ?_).trans ?_⟩
  · simpa using hd
  · simp [State.srReact_eq, State.setLevel, shiftIn_eq]

/-- Settles O16: after the first write the line has the level, and so a second one changes nothing; each of the two pulses
shifts once. -/
theorem lineWriteIdempotent : Obligations.LineWriteIdempotent := by
  refine ⟨fun l b s t hd h => ?_, fun s hd hl => ?_⟩
  · rw [lineWrite_out b hd] at h
    cases h
    exact lineWrite_of_level_eq (by simpa using hd) (by simp)
  · obtain ⟨t1, h1, h2⟩ := sclkPulse_shifts hd hl
    obtain ⟨t3, h3, h4⟩ := sclkPulse_shifts
      (s := { s with srStore := BitVec.ofNat 8 (2 * s.srStore.toNat + s.level.data.toNat) }) hd hl
    refine ⟨t1, _, t3, _, h1, h2, h3, h4, ?_⟩
    have htwice : BitVec.ofNat 8 (2 * (BitVec.ofNat 8 (2 * s.srStore.toNat + s.level.data.toNat)).toNat +
        s.level.data.toNat) = BitVec.ofNat 8 (4 * s.srStore.toNat + 3 * s.level.data.toNat) := by
      apply BitVec.eq_of_toNat_eq
      simp only [BitVec.toNat_ofNat]
      omega
    simp only [htwice]

/-! ### In which steps the register changes -/

/-- Everything the attached register's reaction can do. -/
theorem State.srReact_cases (s : State) (l : Line) (old b : Level) :
    s.srReact l old b = s ∨ (l = .sclk ∧ old = false ∧ b = true ∧ s.srReact l old b = s.srShift) ∨
    (l = .latch ∧ old = false ∧ b = true ∧ s.srReact l old b = s.srLatch) := by
  cases b with
  | false => exact .inl (s.srReact_low l old)
  | true =>
    cases old with
    | true => exact .inl (s.srReact_same l true)
    | false =>
      cases l with
      | data => exact .inl rfl
      | sclk => exact .inr (.inl ⟨rfl, rfl, rfl, rfl⟩)
      | latch => exact .inr (.inr ⟨rfl, rfl, rfl, rfl⟩)

@[simp] theorem advance_srStore (park : Bool) (s : State) : (advance park s).srStore = s.srStore := by
  obtain ⟨w, k, p, h⟩ := advance_eq_setEngine park s
  rw [h, State.setEngine_srStore]

@[simp] theorem advance_srOut (park : Bool) (s : State) : (advance park s).srOut = s.srOut := by
  obtain ⟨w, k, p, h⟩ := advance_eq_setEngine park s
  rw [h, State.setEngine_srOut]

/-- A phase that raises ShiftClock issues SCLK_HIGH (10_state R20). -/
theorem phaseCode_of_sclk_rise {s : State} (h : phaseLine s = some (.sclk, true)) : phaseCode s = some 0b011#3 := by
  cases hp : s.phase <;> simp [phaseLine, phaseCode, hp] at h ⊢

/-- A phase that raises Latch issues LATCH_HIGH (10_state R20). -/
theorem phaseCode_of_latch_rise {s : State} (h : phaseLine s = some (.latch, true)) : phaseCode s = some 0b101#3 := by
  cases hp : s.phase <;> simp [phaseLine, phaseCode, hp] at h ⊢

/-- What the engine's step can do to the attached register: nothing, a shift or a latch (20_memory R45). -/
theorem engineStep_register {park : Bool} {s t : State} (h : engineStep park s = .next t) (hr : s.refusal = none) :
    (t.srStore = s.srStore ∧ t.srOut = s.srOut) ∨
    (phaseCode s = some 0b011#3 ∧ s.level.sclk = false ∧ t.srOut = s.srOut) ∨
    (phaseCode s = some 0b101#3 ∧ s.level.latch = false ∧ t.srStore = s.srStore ∧ t.srOut = s.srStore) := by
  obtain ⟨-, rfl⟩ | ⟨-, rfl⟩ | ⟨l, b, -, -, rfl⟩ | ⟨l, b, hl, -, rfl⟩ := engineStep_cases h hr
  · exact .inl ⟨rfl, rfl⟩
  · exact .inl ⟨rfl, rfl⟩
  · exact .inl ⟨rfl, rfl⟩
  · obtain hreact | ⟨rfl, hold, rfl, hreact⟩ | ⟨rfl, hold, rfl, hreact⟩ :=
      (s.setLevel l b).srReact_cases l (s.level.get l) b <;> rw [hreact]
    · exact .inl (by simp)
    · exact .inr (.inl ⟨phaseCode_of_sclk_rise hl, hold, by simp⟩)
    · exact .inr (.inr ⟨phaseCode_of_latch_rise hl, hold, by simp⟩)

@[simp] theorem phaseCode_passHold (s : State) : phaseCode s.passHold = phaseCode s := by
  simp [phaseCode]

/-- What a step without a power loss can do to the attached register: nothing, a shift where it issues SCLK_HIGH, or a latch
where it issues LATCH_HIGH (20_memory R45). -/
theorem stepWith_register {park : Bool} {s t : State} (hp : s.powered) (h : stepWith park s = .next t) :
    (t.srStore = s.srStore ∧ t.srOut = s.srOut) ∨
    (issued s = some 0b011#3 ∧ s.level.sclk = false ∧ t.srOut = s.srOut) ∨
    (issued s = some 0b101#3 ∧ s.level.latch = false ∧ t.srStore = s.srStore ∧ t.srOut = s.srStore) := by
  obtain ⟨rest, -, rfl⟩ | ⟨d, rest, hin, -⟩ | ⟨-, -, rfl⟩ | ⟨-, -, -, rest, -, rfl⟩ | ⟨-, hready, hhost⟩ | ⟨hturn, heng⟩ :=
    stepWith_cases h
  · exact .inl ⟨rfl, rfl⟩
  · exact absurd hp (not_powered_of_powerCycle hin)
  · exact .inl ⟨rfl, rfl⟩
  · exact .inl ⟨rfl, rfl⟩
  · obtain ⟨-, -, -, -, hstore, hout, -⟩ := hostTurn_frame hhost hready
    exact .inl ⟨hstore, hout⟩
  · have ⟨_, _, hr, _⟩ := hturn
    rw [issued_engine hturn]
    simpa using engineStep_register heng (by simpa using hr)

/-- A step without a power loss lowers every line, or leaves the level of all lines but one. -/
theorem stepWith_level_powered {park : Bool} {s t : State} (hp : s.powered) (h : stepWith park s = .next t) :
    t.level = .all false ∨ ∃ l, ∀ l', l' ≠ l → t.level.get l' = s.level.get l' := by
  obtain ⟨rest, -, rfl⟩ | ⟨d, rest, hin, -⟩ | ⟨-, -, rfl⟩ | ⟨hu, hi, -⟩ | ⟨hu, hready, -⟩ | ⟨⟨hu, hi, -⟩, -⟩ :=
    stepWith_cases h
  · exact .inl rfl
  · exact absurd hp (not_powered_of_powerCycle hin)
  · exact .inl rfl
  · exact .inr (oneLineWritePerStep park s t hu hi h)
  · exact .inr (oneLineWritePerStep park s t hu (s.ready_iff.mp hready).1 h)
  · exact .inr (oneLineWritePerStep park s t hu hi h)

/-- A step without a power loss does not raise both ShiftClock and Latch (00_scope R9, 20_memory R45). -/
theorem stepWith_not_both_rise {park : Bool} {s t : State} (hp : s.powered) (h : stepWith park s = .next t) :
    ¬ (s.level.sclk = false ∧ t.level.sclk = true ∧ s.level.latch = false ∧ t.level.latch = true) := by
  rintro ⟨hsclk, hsclk', hlatch, hlatch'⟩
  obtain hlow | ⟨l, hkept⟩ := stepWith_level_powered hp h
  · simp [hlow, PerLine.all] at hsclk'
  · by_cases hl : l = .sclk
    · have hsame : t.level.latch = s.level.latch := hkept .latch (by simp [hl])
      simp [hsame, hlatch] at hlatch'
    · have hsame : t.level.sclk = s.level.sclk := hkept .sclk (Ne.symm hl)
      simp [hsame, hsclk] at hsclk'

/-- Settles O17: a powered step leaves the register, shifts it or latches it, and writes one line or lowers all. -/
theorem registerChangesOnlyOnRises : Obligations.RegisterChangesOnlyOnRises := by
  intro park s t hp h
  refine ⟨fun hstore => ?_, fun hout => ?_, stepWith_not_both_rise hp h⟩
  · obtain ⟨hkept, -⟩ | ⟨hissued, hlow, -⟩ | ⟨-, -, hkept, -⟩ := stepWith_register hp h
    · exact absurd hkept hstore
    · exact ⟨hissued, hlow⟩
    · exact absurd hkept hstore
  · obtain ⟨-, hkept⟩ | ⟨-, -, hkept⟩ | ⟨hissued, hlow, -, hcopied⟩ := stepWith_register hp h
    · exact absurd hkept hout
    · exact absurd hkept hout
    · exact ⟨hissued, hlow, hcopied⟩

/-! ### No step reads the register -/

/-- `s` with other values in the attached register. -/
def State.withRegister (s : State) (a b : Byte) : State := { s with srStore := a, srOut := b }

/-- `f` does not read the attached register: from a state that differs only there it answers a next state that differs only
there (20_memory R40). -/
def RegisterBlind (f : State → Result) : Prop :=
  ∀ (s t : State) (a b : Byte), f s = .next t → ∃ a' b', f (s.withRegister a b) = .next (t.withRegister a' b')

@[simp] theorem State.withRegister_phase (s : State) (a b : Byte) : (s.withRegister a b).phase = s.phase := rfl

@[simp] theorem State.withRegister_initDone (s : State) (a b : Byte) :
    (s.withRegister a b).initDone = s.initDone := rfl

@[simp] theorem State.withRegister_refusal (s : State) (a b : Byte) : (s.withRegister a b).refusal = s.refusal := rfl

@[simp] theorem State.withRegister_refused (s : State) (a b : Byte) : (s.withRegister a b).refused = s.refused := rfl

@[simp] theorem State.withRegister_ready (s : State) (a b : Byte) : (s.withRegister a b).ready = s.ready := rfl

@[simp] theorem State.withRegister_inputs (s : State) (a b : Byte) : (s.withRegister a b).inputs = s.inputs := rfl

@[simp] theorem phaseCode_withRegister (s : State) (a b : Byte) : phaseCode (s.withRegister a b) = phaseCode s := rfl

@[simp] theorem State.passHold_withRegister (s : State) (a b : Byte) :
    (s.withRegister a b).passHold = s.passHold.withRegister a b := by
  simp only [State.passHold, State.withRegister_inputs]
  split <;> rfl

@[simp] theorem advance_withRegister (park : Bool) (s : State) (a b : Byte) :
    advance park (s.withRegister a b) = (advance park s).withRegister a b := by
  unfold advance
  rw [State.withRegister_phase]
  cases s.phase <;> rfl

theorem raiseRefuse_registerBlind (r : RefuseReason) : RegisterBlind (raiseRefuse r) := by
  intro s t a b h
  cases h
  exact ⟨a, b, rfl⟩

theorem lineWrite_registerBlind (l : Line) (v : Level) : RegisterBlind (lineWrite l v) := by
  intro s t a b h
  obtain ⟨hd, rfl⟩ | ⟨hd, rfl⟩ := lineWrite_cases h
  · have hd' : (s.withRegister a b).dir.get l = .output := hd
    rw [lineWrite_out v hd', State.srReact_eq, State.srReact_eq]
    exact ⟨_, _, rfl⟩
  · exact ⟨a, b, lineWrite_notOut v hd⟩

theorem acceptPush_registerBlind (v : Byte) : RegisterBlind (acceptPush v) := by
  intro s t a b h
  obtain ⟨hready, rfl⟩ := acceptPush_cases h
  exact ⟨a, b, by rw [acceptPush, if_pos (by simpa using hready)]; rfl⟩

theorem exec_registerBlind (i : Instr) : RegisterBlind (exec i) := by
  cases i with
  | push v => exact acceptPush_registerBlind v
  | clear => exact acceptPush_registerBlind 0x00#8
  | dataLow => exact lineWrite_registerBlind .data false
  | dataHigh => exact lineWrite_registerBlind .data true
  | sclkLow => exact lineWrite_registerBlind .sclk false
  | sclkHigh => exact lineWrite_registerBlind .sclk true
  | latchLow => exact lineWrite_registerBlind .latch false
  | latchHigh => exact lineWrite_registerBlind .latch true
  | init =>
    intro s t a b h
    cases h
    exact ⟨a, b, rfl⟩

theorem lineDriver_registerBlind (o : LineCode) : RegisterBlind (lineDriver o) := by
  unfold lineDriver
  cases decodeLineOp o with
  | ok i => exact exec_registerBlind i
  | error r => exact raiseRefuse_registerBlind r

theorem offerWord_registerBlind (c : CmdWord) : RegisterBlind (offerWord c) := by
  unfold offerWord
  cases decodeCmd c with
  | ok i => exact exec_registerBlind i
  | error r => exact raiseRefuse_registerBlind r

theorem phaseWrite_registerBlind (park : Bool) (o : LineCode) : RegisterBlind (phaseWrite park o) := by
  intro s t a b h
  unfold phaseWrite at h ⊢
  split at h
  · rename_i u hu
    obtain ⟨a', b', hu'⟩ := lineDriver_registerBlind o s u a b hu
    refine ⟨a', b', ?_⟩
    simp only [hu', State.withRegister_refused, advance_withRegister]
    split at h <;> cases h
    · rename_i hrefused
      rw [if_pos hrefused]
    · rename_i hdone
      rw [if_neg hdone]
  · cases h
  · cases h

theorem engineStep_registerBlind (park : Bool) : RegisterBlind (engineStep park) := by
  intro s t a b h
  unfold engineStep at h ⊢
  rw [phaseCode_withRegister, State.withRegister_phase]
  split at h
  · exact phaseWrite_registerBlind park _ s t a b h
  · split at h
    · rename_i hidle
      cases h
      exact ⟨a, b, by rw [if_pos hidle]⟩
    · rename_i hbusy
      rw [if_neg hbusy]
      exact raiseRefuse_registerBlind _ s t a b h

theorem hostTurn_registerBlind : RegisterBlind hostTurn := by
  intro s t a b h
  unfold hostTurn at h ⊢
  rw [State.withRegister_inputs]
  split at h
  · exact offerWord_registerBlind _ (s.setInputs _) t a b h
  all_goals
    cases h
    exact ⟨a, b, rfl⟩

theorem refusedTurn_registerBlind (r : RefuseReason) : RegisterBlind (refusedTurn r) := by
  intro s t a b h
  unfold refusedTurn at h ⊢
  rw [State.withRegister_inputs]
  split at h
  · cases h
    exact ⟨a, b, rfl⟩
  · cases h

theorem agentStep_registerBlind (park : Bool) : RegisterBlind (agentStep park) := by
  intro s t a b h
  unfold agentStep at h ⊢
  simp only [State.withRegister_initDone, State.withRegister_refusal, State.withRegister_phase,
    State.passHold_withRegister]
  by_cases hi : s.initDone
  · simp only [if_pos hi] at h ⊢
    cases hr : s.refusal with
    | some r =>
      rw [hr] at h
      exact refusedTurn_registerBlind r s t a b h
    | none =>
      simp only [hr] at h ⊢
      by_cases hp : s.phase = .idle
      · rw [if_pos hp] at h ⊢
        exact hostTurn_registerBlind s t a b h
      · rw [if_neg hp] at h ⊢
        exact engineStep_registerBlind park s.passHold t a b h
  · rw [if_neg hi] at h ⊢
    cases h
    exact ⟨a, b, rfl⟩

/-- Every step is blind to the attached register, also a power loss, which draws it anew. -/
theorem stepWith_registerBlind (park : Bool) : RegisterBlind (stepWith park) := by
  intro s t a b h
  unfold stepWith at h ⊢
  rw [State.withRegister_inputs]
  split at h
  · cases h
    exact ⟨a, b, rfl⟩
  · cases h
    exact ⟨_, _, rfl⟩
  · exact agentStep_registerBlind park s t a b h

theorem issued_withRegister (s : State) (a b : Byte) : issued (s.withRegister a b) = issued s := rfl

/-- Settles O45: the operation a step issues is computed without the register, and every part of the step is blind to it. -/
theorem registerNeverReadBack : Obligations.RegisterNeverReadBack :=
  fun park s t a b h => ⟨issued_withRegister s a b, stepWith_registerBlind park s t a b h⟩

end Machine
end Sys2Proof
end

section
/-! The encoding: a command word by its fields, the decoders as the inverses of the encoder, the words with a meaning, the
reserved line operation code, and the assembler's words (30_encoding R61 to R74). -/
namespace Sys2Proof

/-! ### The fields of a command word -/

@[simp] theorem cmdImm8_append (v : Byte) (r o : BitVec 4) : cmdImm8 (v ++ r ++ o) = v :=
  (BitVec.extractLsb'_append_eq_of_le (by decide)).trans BitVec.extractLsb'_append_eq_left

@[simp] theorem cmdRsv_append (v : Byte) (r o : BitVec 4) : cmdRsv (v ++ r ++ o) = r :=
  (BitVec.extractLsb'_append_eq_of_le (by decide)).trans BitVec.extractLsb'_append_eq_right

@[simp] theorem cmdOp_append (v : Byte) (r o : BitVec 4) : cmdOp (v ++ r ++ o) = o :=
  BitVec.extractLsb'_append_eq_right

@[simp] theorem cmdImm8_and (c d : CmdWord) : cmdImm8 (c &&& d) = cmdImm8 c &&& cmdImm8 d := BitVec.extractLsb'_and ..

@[simp] theorem cmdRsv_and (c d : CmdWord) : cmdRsv (c &&& d) = cmdRsv c &&& cmdRsv d := BitVec.extractLsb'_and ..

@[simp] theorem cmdOp_and (c d : CmdWord) : cmdOp (c &&& d) = cmdOp c &&& cmdOp d := BitVec.extractLsb'_and ..

/-- A word is given by its fields (30_encoding R61). -/
theorem cmdWord_eq_append_iff (c : CmdWord) (v : Byte) (r o : BitVec 4) :
    c = v ++ r ++ o ↔ cmdImm8 c = v ∧ cmdRsv c = r ∧ cmdOp c = o := by
  refine ⟨fun h => by simp [h], fun ⟨himm, hrsv, hop⟩ => ?_⟩
  rw [← himm, ← hrsv, ← hop]
  exact cmdWord_fields c

/-- A masked word is given by its masked fields. -/
theorem and_eq_append_iff (c : CmdWord) (v v' : Byte) (r r' o o' : BitVec 4) :
    c &&& (v ++ r ++ o) = v' ++ r' ++ o' ↔ cmdImm8 c &&& v = v' ∧ cmdRsv c &&& r = r' ∧ cmdOp c &&& o = o' := by
  simp [cmdWord_eq_append_iff]

theorem and_0xFF00_eq_zero_iff (c : CmdWord) : c &&& 0xFF00#16 = 0#16 ↔ cmdImm8 c = 0x00#8 :=
  (and_eq_append_iff c (.allOnes 8) 0#8 0#4 0#4 0#4 0#4).trans
    (by simp only [BitVec.and_allOnes, BitVec.and_zero, and_true])

theorem and_0x00F0_eq_zero_iff (c : CmdWord) : c &&& 0x00F0#16 = 0#16 ↔ cmdRsv c = 0x0#4 :=
  (and_eq_append_iff c 0#8 0#8 (.allOnes 4) 0#4 0#4 0#4).trans
    (by simp only [BitVec.and_allOnes, BitVec.and_zero, and_true, true_and])

theorem and_0x000F_eq_iff (c : CmdWord) (o : BitVec 4) : c &&& 0x000F#16 = 0#8 ++ 0#4 ++ o ↔ cmdOp c = o :=
  (and_eq_append_iff c 0#8 0#8 0#4 0#4 (.allOnes 4) o).trans
    (by simp only [BitVec.and_allOnes, BitVec.and_zero, true_and])

theorem and_0x00FF_eq_iff (c : CmdWord) (r o : BitVec 4) :
    c &&& 0x00FF#16 = 0#8 ++ r ++ o ↔ cmdRsv c = r ∧ cmdOp c = o :=
  (and_eq_append_iff c 0#8 0#8 (.allOnes 4) r (.allOnes 4) o).trans
    (by simp only [BitVec.and_allOnes, BitVec.and_zero, true_and])

/-! ### The word of PUSH -/

@[simp] theorem cmdImm8_pushWord (v : Byte) : cmdImm8 (pushWord v) = v := cmdImm8_append ..

@[simp] theorem cmdRsv_pushWord (v : Byte) : cmdRsv (pushWord v) = 0x0#4 := cmdRsv_append ..

@[simp] theorem cmdOp_pushWord (v : Byte) : cmdOp (pushWord v) = 0x1#4 := cmdOp_append ..

/-- Two bytes have two PUSH words (30_encoding R64). -/
theorem pushWord_injective : Function.Injective pushWord := by
  intro v w h
  simpa using congrArg cmdImm8 h

theorem pushWord_ne_clearWord (v : Byte) : pushWord v ≠ clearWord := by
  intro h
  have hop : cmdOp (pushWord v) = 0x2#4 := congrArg cmdOp h
  simp at hop

/-- The PUSH word as 30_encoding R66 writes it. -/
theorem pushWord_eq_or (v : Byte) : pushWord v = (v.setWidth 16 <<< 8) ||| 0x0001#16 := by
  simpa [pushWord] using
    BitVec.setWidth_append_append_eq_shiftLeft_setWidth_or (b := v) (b' := 0x0#4) (b'' := 0x1#4) (w''' := 16)

theorem pushWord_toNat (v : Byte) : (pushWord v).toNat = v.toNat * 256 + 1 := by
  rw [pushWord, BitVec.toNat_append, BitVec.toNat_append, ← Nat.shiftLeft_add_eq_or_of_lt (0x0#4).isLt,
    ← Nat.shiftLeft_add_eq_or_of_lt (0x1#4).isLt]
  simp only [Nat.shiftLeft_eq, BitVec.toNat_ofNat]
  omega

/-! ### The command decoder, one equation per kind of word (30_encoding R63 to R65, 60_exceptions R118) -/

section
variable {c : CmdWord}

theorem decodeCmd_of_rsv_ne (hrsv : cmdRsv c ≠ 0x0#4) : decodeCmd c = .error (.rsvBits c) := by
  simp [decodeCmd, hrsv]

theorem decodeCmd_of_push (hrsv : cmdRsv c = 0x0#4) (hop : cmdOp c = 0x1#4) :
    decodeCmd c = .ok (.push (cmdImm8 c)) := by
  simp [decodeCmd, hrsv, hop]

theorem decodeCmd_of_clear (hrsv : cmdRsv c = 0x0#4) (hop : cmdOp c = 0x2#4) (himm : cmdImm8 c = 0x00#8) :
    decodeCmd c = .ok .clear := by
  simp [decodeCmd, hrsv, hop, himm]

theorem decodeCmd_of_clear_imm_ne (hrsv : cmdRsv c = 0x0#4) (hop : cmdOp c = 0x2#4) (himm : cmdImm8 c ≠ 0x00#8) :
    decodeCmd c = .error (.clearImm c) := by
  simp [decodeCmd, hrsv, hop, himm]

theorem decodeCmd_of_op_ne (hrsv : cmdRsv c = 0x0#4) (h1 : cmdOp c ≠ 0x1#4) (h2 : cmdOp c ≠ 0x2#4) :
    decodeCmd c = .error (.rsvOp c) := by
  simp [decodeCmd, hrsv, h1, h2]

end

/-- Settles O3: each mask of the statement selects a field, and each clause is one equation of the decoder. -/
theorem commandWordMap : Obligations.CommandWordMap := by
  intro c
  refine ⟨fun hrsv => ?_, fun h => ?_, fun h => ?_, fun h himm => ?_, fun hrsv h1 h2 => ?_⟩
  · exact decodeCmd_of_rsv_ne (mt (and_0x00F0_eq_zero_iff c).mpr hrsv)
  · obtain ⟨hrsv, hop⟩ := (and_0x00FF_eq_iff c 0x0#4 0x1#4).mp h
    exact decodeCmd_of_push hrsv hop
  · rw [h]
    rfl
  · obtain ⟨hrsv, hop⟩ := (and_0x00FF_eq_iff c 0x0#4 0x2#4).mp h
    exact decodeCmd_of_clear_imm_ne hrsv hop (mt (and_0xFF00_eq_zero_iff c).mpr himm)
  · exact decodeCmd_of_op_ne ((and_0x00F0_eq_zero_iff c).mp hrsv) (mt (and_0x000F_eq_iff c 0x1#4).mpr h1)
      (mt (and_0x000F_eq_iff c 0x2#4).mpr h2)

/-! ### Decoding and encoding -/

/-- Settles O4: the eight codes, evaluated. -/
theorem lineOperationMap : Obligations.LineOperationMap :=
  ⟨rfl, rfl, rfl, rfl, rfl, rfl, rfl, rfl⟩

theorem decodeCmd_pushWord (v : Byte) : decodeCmd (pushWord v) = .ok (.push v) := by
  rw [decodeCmd_of_push (cmdRsv_pushWord v) (cmdOp_pushWord v), cmdImm8_pushWord]

/-- Every encoding decodes to its instruction. -/
theorem decode_encode (i : Instr) : decode (encode i) = .ok i := by
  cases i with
  | push v => exact decodeCmd_pushWord v
  | _ => rfl

/-- A command word that decodes is the encoding of what it decodes to: all its bits are fields of the encoding. -/
theorem encode_of_decodeCmd {c : CmdWord} {i : Instr} (h : decodeCmd c = .ok i) : encode i = .cmd16 c := by
  by_cases hrsv : cmdRsv c = 0x0#4
  · by_cases hpush : cmdOp c = 0x1#4
    · cases (decodeCmd_of_push hrsv hpush).symm.trans h
      exact congrArg BusWord.cmd16 ((cmdWord_eq_append_iff c _ _ _).mpr ⟨rfl, hrsv, hpush⟩).symm
    · by_cases hclear : cmdOp c = 0x2#4
      · by_cases himm : cmdImm8 c = 0x00#8
        · cases (decodeCmd_of_clear hrsv hclear himm).symm.trans h
          exact congrArg BusWord.cmd16 ((cmdWord_eq_append_iff c _ _ _).mpr ⟨himm, hrsv, hclear⟩).symm
        · cases (decodeCmd_of_clear_imm_ne hrsv hclear himm).symm.trans h
      · cases (decodeCmd_of_op_ne hrsv hpush hclear).symm.trans h
  · cases (decodeCmd_of_rsv_ne hrsv).symm.trans h

/-- The eight codes of 30_encoding R69. -/
theorem lineCode_cases : ∀ o : LineCode, o = 0b000#3 ∨ o = 0b001#3 ∨ o = 0b010#3 ∨ o = 0b011#3 ∨ o = 0b100#3 ∨
    o = 0b101#3 ∨ o = 0b110#3 ∨ o = 0b111#3 := by
  decide

/-- A line operation code that decodes is the encoding of what it decodes to. -/
theorem encode_of_decodeLineOp {o : LineCode} {i : Instr} (h : decodeLineOp o = .ok i) : encode i = .lineop3 o := by
  obtain rfl | rfl | rfl | rfl | rfl | rfl | rfl | rfl := lineCode_cases o <;> cases h <;> rfl

/-- Settles O1: encoding then decoding, and on each bus decoding then encoding. -/
theorem decodeInvertsEncode : Obligations.DecodeInvertsEncode := by
  refine fun b i => ⟨fun h => ?_, fun h => h ▸ decode_encode i⟩
  cases b with
  | cmd16 c => exact (encode_of_decodeCmd h).symm
  | lineop3 o => exact (encode_of_decodeLineOp h).symm

/-! ### The command words with a meaning -/

/-- The words with a meaning are those of PUSH and that of CLEAR (30_encoding R66). -/
theorem exists_decodeCmd_ok_iff (c : CmdWord) :
    (∃ i, decodeCmd c = .ok i) ↔ (∃ v, c = pushWord v) ∨ c = clearWord := by
  constructor
  · rintro ⟨i, h⟩
    have hc := encode_of_decodeCmd h
    obtain ⟨v, rfl⟩ | rfl := Machine.decodeCmd_ok h
    · exact .inl ⟨v, (BusWord.cmd16.inj hc).symm⟩
    · exact .inr (BusWord.cmd16.inj hc).symm
  · rintro (⟨v, rfl⟩ | rfl)
    · exact ⟨.push v, decode_encode (.push v)⟩
    · exact ⟨.clear, decode_encode .clear⟩

/-- The words with a meaning, one by one. -/
def commandWords : List CmdWord :=
  clearWord :: (List.finRange 256).map (fun n => pushWord (BitVec.ofFin n))

theorem mem_commandWords (c : CmdWord) : c ∈ commandWords ↔ (∃ v, c = pushWord v) ∨ c = clearWord := by
  simp only [commandWords, List.mem_cons, List.mem_map, List.mem_finRange, true_and]
  rw [or_comm]
  exact or_congr_left ⟨fun ⟨n, h⟩ => ⟨_, h.symm⟩, fun ⟨v, h⟩ => ⟨v.toFin, h.symm⟩⟩

theorem nodup_commandWords : commandWords.Nodup := by
  refine List.nodup_cons.mpr ⟨fun h => ?_, (List.nodup_finRange 256).map fun m n h => ?_⟩
  · obtain ⟨n, -, h⟩ := List.mem_map.mp h
    exact pushWord_ne_clearWord _ h
  · exact BitVec.ofFin.inj (pushWord_injective h)

theorem length_commandWords : commandWords.length = 257 := by
  simp [commandWords]

/-- Settles O2: the words with a meaning are the members of `commandWords`, and the decoder answers an instruction or a
reason. -/
theorem commandWordsWithMeaning : Obligations.CommandWordsWithMeaning := by
  refine ⟨fun c => ?_, ⟨commandWords, nodup_commandWords, length_commandWords, fun c => ?_⟩, fun c h => ?_⟩
  · exact (exists_decodeCmd_ok_iff c).trans (by simp only [pushWord_eq_or, clearWord])
  · rw [mem_commandWords, exists_decodeCmd_ok_iff]
  · cases hc : decodeCmd c with
    | ok i => exact absurd ⟨i, hc⟩ h
    | error r => exact ⟨r, rfl⟩

namespace Machine

/-! ### The reserved line operation code -/

theorem lineDriver_reserved (s : State) : lineDriver 0b111#3 s = raiseRefuse (.rsvLineop 0b111#3) s := rfl

/-- A step issues nothing, INIT or its phase's code (30_encoding R71). -/
theorem issued_cases (s : State) : issued s = none ∨ issued s = some 0b110#3 ∨ issued s = phaseCode s := by
  unfold issued
  split
  · simp
  · simp
  · split
    · split <;> simp
    · simp

/-- No phase has the reserved code (10_state R20). -/
theorem phaseCode_ne_reserved (s : State) : phaseCode s ≠ some 0b111#3 := by
  cases hp : s.phase
  case data => cases hw : msbSet s.w <;> simp [phaseCode, hp, hw]
  all_goals simp [phaseCode, hp]

/-- Settles O15: the line driver marks the refusal only, and nothing that a step issues is the reserved code. -/
theorem reservedLineCodeRefused : Obligations.ReservedLineCodeRefused := by
  intro s
  refine ⟨lineDriver_reserved s, ?_⟩
  obtain h | h | h := issued_cases s <;> rw [h]
  · decide
  · decide
  · exact phaseCode_ne_reserved s

/-! ### The assembler -/

/-- A PUSH operand above 255 is rejected, not reduced (30_encoding R73). -/
theorem assemble_push_of_gt {n : Numeral} (h : 255 < n.value) : assemble (.push n) = none := by
  simp [assemble, HostLine.wellFormed, h]

/-- A PUSH operand of at most 255 gives the PUSH word of its value (30_encoding R73). -/
theorem assemble_push_of_le {n : Numeral} (h : n.value ≤ 255) :
    assemble (.push n) = some (.command (pushWord (BitVec.ofNat 8 n.value))) := by
  simp [assemble, HostLine.wellFormed, h]

/-- Settles O6: a PUSH line gives the word of its value or is rejected; every other line is assembled as written. -/
theorem assemblerGivesWords : Obligations.AssemblerGivesWords := by
  refine ⟨fun n h => ⟨_, assemble_push_of_le h, ?_⟩, fun n => assemble_push_of_gt, fun _ => rfl, rfl, fun _ => rfl, rfl,
    fun _ => rfl⟩
  rw [pushWord_toNat, BitVec.toNat_ofNat, Nat.mod_eq_of_lt (Nat.lt_succ_of_le h)]

end Machine
end Sys2Proof
end

section
/-! The line driver's seven operations: what each answers where its line is an output, its refusal, and which phase issues it
(40_line_driver R76 to R82). `exec` of the six line operations is `lineWrite` by definition. -/
namespace Sys2Proof.Machine

/-! ### A line write, by its line and level -/

/-- Lowering an output line changes its level only (40_line_driver R76, R78, R80). -/
theorem lineWrite_low {l : Line} {s : State} (hd : s.dir.get l = .output) :
    lineWrite l false s = .next (s.setLevel l false) := by
  rw [lineWrite_out false hd, State.srReact_low]

/-- The attached register does not react to a write of Data (20_memory R45). -/
theorem lineWrite_data (b : Level) {s : State} (hd : s.dir.data = .output) :
    lineWrite .data b s = .next (s.setLevel .data b) :=
  lineWrite_out b hd

/-- A rise of ShiftClock shifts the level of Data into the storage (40_line_driver R79). -/
theorem lineWrite_sclk_rise {s : State} (hd : s.dir.sclk = .output) (hl : s.level.sclk = false) :
    lineWrite .sclk true s = .next { s with
      level := { s.level with sclk := true }
      srStore := BitVec.ofNat 8 (2 * s.srStore.toNat + s.level.data.toNat) } := by
  rw [lineWrite_out (l := .sclk) true hd, PerLine.get_sclk, hl, ← shiftIn_eq]
  rfl

/-- A rise of Latch copies the storage to the outputs (40_line_driver R81). -/
theorem lineWrite_latch_rise {s : State} (hd : s.dir.latch = .output) (hl : s.level.latch = false) :
    lineWrite .latch true s = .next { s with level := { s.level with latch := true }, srOut := s.srStore } := by
  rw [lineWrite_out (l := .latch) true hd, PerLine.get_latch, hl]
  rfl

/-! ### Which phase issues which operation -/

/-- Phase DATA issues the Data write of `W[7]` (10_state R20). -/
theorem phaseCode_of_data {s : State} (hp : s.phase = .data) :
    phaseCode s = if s.w.getLsbD 7 then some 0b001#3 else some 0b000#3 := by
  simp only [phaseCode, hp, msbSet_eq]

/-- Phase PARK issues DATA_LOW (10_state R20). -/
theorem phaseCode_of_park {s : State} (hp : s.phase = .park) : phaseCode s = some 0b000#3 := by
  simp only [phaseCode, hp]

/-- No phase but SCLK_H issues SCLK_HIGH (10_state R20). -/
theorem phase_of_phaseCode_sclkHigh {s : State} (h : phaseCode s = some 0b011#3) : s.phase = .sclkH := by
  cases hp : s.phase
  case sclkH => rfl
  case data => rw [phaseCode_of_data hp] at h; split at h <;> simp at h
  all_goals simp [phaseCode, hp] at h

/-- Under the invariant ShiftClock is low on entry to phase SCLK_H. -/
theorem sclk_low_of_sclkH {park : Bool} {s : State} (hinv : sequencerInv park s) (hi : s.initDone = true)
    (hp : s.phase = .sclkH) : s.level.sclk = false := by
  obtain ⟨-, hphase⟩ := hinv hi
  simp only [phaseInv, hp] at hphase
  obtain ⟨hlow, -⟩ := hphase
  exact hlow

/-! ### The operations -/

/-- Settles O8: a low write of Data; DATA issues it for `W[7]` = 0, PARK always. -/
theorem dataLowDrivesData : Obligations.DataLowDrivesData := by
  refine ⟨decode_encode .dataLow, fun s => ⟨fun hd => ?_, fun hd => ?_, fun hp hw => ?_, phaseCode_of_park⟩⟩
  · exact lineWrite_data false hd
  · exact lineWrite_notOut false hd
  · rw [phaseCode_of_data hp, hw, if_neg Bool.false_ne_true]

/-- Settles O9: a high write of Data; DATA issues it for `W[7]` = 1. -/
theorem dataHighDrivesData : Obligations.DataHighDrivesData := by
  refine ⟨decode_encode .dataHigh, fun s => ⟨fun hd => ?_, fun hd => ?_, fun hp hw => ?_⟩⟩
  · exact lineWrite_data true hd
  · exact lineWrite_notOut true hd
  · rw [phaseCode_of_data hp, hw, if_pos rfl]

/-- Settles O10: a low write is no rising edge. -/
theorem sclkLowDropsClock : Obligations.SclkLowDropsClock :=
  ⟨decode_encode .sclkLow, fun _ => ⟨fun hd => lineWrite_low hd, fun hd => lineWrite_notOut false hd⟩⟩

/-- Settles O11: a high write of ShiftClock rises, or finds the line high; the engine issues it in phase SCLK_H only, where
the invariant has the line low. -/
theorem sclkHighShiftsData : Obligations.SclkHighShiftsData := by
  refine ⟨decode_encode .sclkHigh, fun s => ⟨fun hd hl => ?_, fun hd hl => ?_, fun hd => ?_, fun park hinv hi hcode => ?_⟩⟩
  · exact lineWrite_sclk_rise hd hl
  · exact lineWrite_of_level_eq (l := .sclk) hd hl
  · exact lineWrite_notOut true hd
  · exact sclk_low_of_sclkH hinv hi (phase_of_phaseCode_sclkHigh hcode)

/-- Settles O12: a low write is no rising edge. -/
theorem latchLowDropsLatch : Obligations.LatchLowDropsLatch :=
  ⟨decode_encode .latchLow, fun _ => ⟨fun hd => lineWrite_low hd, fun hd => lineWrite_notOut false hd⟩⟩

/-- Settles O13: a high write of Latch rises, or finds the line high. -/
theorem latchHighCopiesStore : Obligations.LatchHighCopiesStore := by
  refine ⟨decode_encode .latchHigh, fun s => ⟨fun hd hl => ?_, fun hd hl => ?_, fun hd => ?_⟩⟩
  · exact lineWrite_latch_rise hd hl
  · exact lineWrite_of_level_eq (l := .latch) hd hl
  · exact lineWrite_notOut true hd

/-- Settles O14: `initLines` is the next state; a line's port bit is its level, and any other is not written. -/
theorem initDrivesLinesLow : Obligations.InitDrivesLinesLow := by
  refine ⟨decode_encode .init, fun s => ⟨s.initLines, rfl, rfl, fun l => ?_, fun p hp => ?_⟩⟩
  · rw [State.portBit_pin, State.initLines_level, PerLine.get_all, Config.idleLevel]
  · exact State.portBit_other s s.initLines p hp (State.initLines_portRest s)

end Sys2Proof.Machine
end

section
/-! The engine's steps: the accept step of a command (41_shift_engine R84 to R86), each phase's step as one next state
(R87 to R93), that a push never stops (R84), and the placement of an instruction (30_encoding R71). -/
namespace Sys2Proof.Machine

/-! ### The accept step -/

/-- A command is accepted where `ready` = 1 (41_shift_engine R85). -/
theorem acceptPush_of_ready (v : Byte) {s : State} (h : s.ready = true) :
    acceptPush v s = .next (s.setEngine v 0#4 .data) :=
  if_pos h

/-- Settles O20: the word is the encoding of PUSH, and `ready` = 1 is all that the accept step asks for. -/
theorem pushLoadsWorkingValue : Obligations.PushLoadsWorkingValue :=
  fun v _ => ⟨pushWord_eq_or v ▸ decode_encode (.push v), fun h => acceptPush_of_ready v h⟩

/-- Settles O21: CLEAR is accepted as a push of 0x00. -/
theorem clearLoadsZero : Obligations.ClearLoadsZero :=
  ⟨decode_encode .clear, fun _ h => acceptPush_of_ready 0x00#8 h⟩

/-- A command is neither `rst` nor a power loss. -/
theorem undisturbed_of_command {s : State} {c : CmdWord} {rest : List Input} (h : s.inputs = .command c :: rest) :
    s.undisturbed := by
  simp [State.undisturbed, h]

/-- A ready engine meets the offered word (41_shift_engine R84 case (b)). -/
theorem stepWith_command {park : Bool} {s : State} {c : CmdWord} {rest : List Input} (hready : s.ready = true)
    (hin : s.inputs = .command c :: rest) : stepWith park s = offerWord c (s.setInputs rest) := by
  rw [stepWith_host (undisturbed_of_command hin) hready, hostTurn, hin]

theorem offerWord_of_decodeCmd {c : CmdWord} {i : Instr} (h : decodeCmd c = .ok i) (s : State) :
    offerWord c s = exec i s := by
  rw [offerWord, h]

theorem lineDriver_of_decodeLineOp {o : LineCode} {i : Instr} (h : decodeLineOp o = .ok i) (s : State) :
    lineDriver o s = exec i s := by
  rw [lineDriver, h]

/-- Settles O23: the host's turn offers the word, and the decoder's answer is executed. -/
theorem stepRunsOfferedCommand : Obligations.StepRunsOfferedCommand :=
  ⟨fun _ => rfl, fun _ s _ rest _ hready hin hdec =>
    (stepWith_command hready hin).trans (offerWord_of_decodeCmd hdec (s.setInputs rest))⟩

/-- Settles O35: each is the host's turn, which takes off the move and nothing else. -/
theorem holdAndWaitChangeNothing : Obligations.HoldAndWaitChangeNothing := by
  refine ⟨fun park s hready hin => ?_, fun park s rest hready hin => ?_, fun park s ms rest hready hin => ?_⟩ <;>
    rw [stepWith_host (by simp [State.undisturbed, hin]) hready, hostTurn, hin]
  all_goals rfl

/-! ### The engine's step, phase by phase -/

/-- Settles O25: the engine's step is the line driver's on the phase's code, and a refusal is the mark on its answer. -/
theorem stepRunsPhaseOperation : Obligations.StepRunsPhaseOperation := by
  intro park s t o i hturn hcode hdec hexec
  have hcode' : phaseCode s.passHold = some o := by rw [phaseCode_passHold, hcode]
  simp only [stepWith_engine hturn, engineStep, hcode', phaseWrite, lineDriver_of_decodeLineOp hdec, hexec]
  cases ht : t.refusal <;> simp [State.refused, ht]

@[simp] theorem advance_refusal (park : Bool) (s : State) : (advance park s).refusal = s.refusal := by
  obtain ⟨w, k, p, h⟩ := advance_eq_setEngine park s
  rw [h, State.setEngine_refusal]

/-- What the engine does with its registers does not depend on the moves to come. -/
theorem advance_setInputs (park : Bool) (s : State) (l : List Input) :
    advance park (s.setInputs l) = (advance park s).setInputs l := by
  unfold advance
  rw [State.setInputs_phase]
  cases s.phase <;> rfl

theorem srReact_setInputs (s : State) (l : Line) (old b : Level) (ins : List Input) :
    (s.setInputs ins).srReact l old b = (s.srReact l old b).setInputs ins := by
  rw [State.srReact_eq, State.srReact_eq]
  rfl

/-- The engine's step where every line is an output, with the passing of a hold set apart (41_shift_engine R87 to R92). -/
theorem stepWith_phase {park : Bool} {s : State} {l : Line} {b : Level} (hturn : s.enginesTurn) (hout : s.linesOut)
    (hline : phaseLine s = some (l, b)) :
    stepWith park s = .next
      ((advance park ((s.setLevel l b).srReact l (s.level.get l) b)).setInputs s.passHold.inputs) := by
  have hset : s.passHold.setLevel l b = (s.setLevel l b).setInputs s.passHold.inputs :=
    congrArg (State.setLevel · l b) (passHold_eq s)
  rw [stepWith_write hturn hout hline, hset, srReact_setInputs, advance_setInputs]

section
variable {park : Bool} {s : State}

theorem stepWith_data (hturn : s.enginesTurn) (hout : s.linesOut) (hp : s.phase = .data) :
    stepWith park s = .next { s with
      level := { s.level with data := s.w.getLsbD 7 }, phase := .sclkH, inputs := s.passHold.inputs } := by
  have hline : phaseLine s = some (.data, s.w.getLsbD 7) := by simp only [phaseLine, hp, msbSet_eq]
  rw [stepWith_phase hturn hout hline]
  simp only [advance, State.srReact_phase, State.setLevel_phase, hp]
  rfl

theorem stepWith_sclkH (hturn : s.enginesTurn) (hout : s.linesOut) (hp : s.phase = .sclkH)
    (hlow : s.level.sclk = false) :
    stepWith park s = .next { s with
      level := { s.level with sclk := true }, phase := .sclkL,
      srStore := BitVec.ofNat 8 (2 * s.srStore.toNat + s.level.data.toNat), inputs := s.passHold.inputs } := by
  have hline : phaseLine s = some (.sclk, true) := by simp only [phaseLine, hp]
  rw [stepWith_phase hturn hout hline]
  simp only [advance, State.srReact_phase, State.setLevel_phase, hp, PerLine.get_sclk, hlow, ← shiftIn_eq]
  rfl

theorem stepWith_sclkL (hturn : s.enginesTurn) (hout : s.linesOut) (hp : s.phase = .sclkL) :
    stepWith park s = .next { s with
      level := { s.level with sclk := false }, w := shiftLeft s.w, k := s.k + 1#4,
      phase := if s.k + 1#4 = 8#4 then .latchH else .data, inputs := s.passHold.inputs } := by
  have hline : phaseLine s = some (.sclk, false) := by simp only [phaseLine, hp]
  rw [stepWith_phase hturn hout hline, State.srReact_low]
  simp only [advance, State.setLevel_phase, hp]
  rfl

theorem stepWith_latchH (hturn : s.enginesTurn) (hout : s.linesOut) (hp : s.phase = .latchH)
    (hlow : s.level.latch = false) :
    stepWith park s = .next { s with
      level := { s.level with latch := true }, phase := .latchL, srOut := s.srStore, inputs := s.passHold.inputs } := by
  have hline : phaseLine s = some (.latch, true) := by simp only [phaseLine, hp]
  rw [stepWith_phase hturn hout hline]
  simp only [advance, State.srReact_phase, State.setLevel_phase, hp, PerLine.get_latch, hlow]
  rfl

theorem stepWith_latchL (hturn : s.enginesTurn) (hout : s.linesOut) (hp : s.phase = .latchL) :
    stepWith park s = .next { s with
      level := { s.level with latch := false }, phase := if park then .park else .idle,
      inputs := s.passHold.inputs } := by
  have hline : phaseLine s = some (.latch, false) := by simp only [phaseLine, hp]
  rw [stepWith_phase hturn hout hline, State.srReact_low]
  simp only [advance, State.setLevel_phase, hp]
  rfl

theorem stepWith_park (hturn : s.enginesTurn) (hout : s.linesOut) (hp : s.phase = .park) :
    stepWith park s = .next { s with
      level := { s.level with data := false }, phase := .idle, inputs := s.passHold.inputs } := by
  have hline : phaseLine s = some (.data, false) := by simp only [phaseLine, hp]
  rw [stepWith_phase hturn hout hline, State.srReact_low]
  simp only [advance, State.setLevel_phase, hp]
  rfl

/-- What the engine's step issues is its phase's code (10_state R20). -/
theorem issued_of_phase (hturn : s.enginesTurn) {o : Option LineCode} (hcode : phaseCode s = o) : issued s = o :=
  (issued_engine hturn).trans hcode

/-- In the engine's turn the invariant speaks of the lines and the phase. -/
theorem enginesTurn_inv (hinv : sequencerInv park s) (hturn : s.enginesTurn) : s.linesOut ∧ phaseInv park s := by
  obtain ⟨-, hi, -⟩ := hturn
  exact hinv hi

end

/-- Shifting the working value is doubling it, mod 256 (41_shift_engine R89). -/
theorem shiftLeft_eq_ofNat (w : Byte) : shiftLeft w = BitVec.ofNat 8 (2 * w.toNat) := by
  apply BitVec.eq_of_toNat_eq
  simp [shiftLeft, Nat.shiftLeft_eq, Nat.mul_comm]

/-- Settles O27: the phase's line is Data, at `W[7]`. -/
theorem phaseDataWritesTopBit : Obligations.PhaseDataWritesTopBit := by
  intro park s hturn hout hp
  refine ⟨issued_of_phase hturn ?_, stepWith_data hturn hout hp⟩
  rw [phaseCode_of_data hp]
  exact (apply_ite some ..).symm

/-- Settles O28: the invariant has ShiftClock low on entry, so the write is a rise. -/
theorem phaseSclkHShiftsOnce : Obligations.PhaseSclkHShiftsOnce := by
  intro park s hinv hturn hp
  obtain ⟨hout, hphase⟩ := enginesTurn_inv hinv hturn
  simp only [phaseInv, hp] at hphase
  obtain ⟨hsclk, -, -, -, hdata⟩ := hphase
  exact ⟨hsclk, hdata, issued_of_phase hturn (by simp only [phaseCode, hp]), stepWith_sclkH hturn hout hp hsclk⟩

/-- Settles O29: the invariant has `K` below 8 on entry, so the count reaches 8 at most, and then all eight bits are gone. -/
theorem phaseSclkLCountsBit : Obligations.PhaseSclkLCountsBit := by
  refine ⟨fun park s hturn hout hp => ⟨issued_of_phase hturn (by simp only [phaseCode, hp]), ?_⟩,
    fun park s t hinv hturn hp h => ?_⟩
  · rw [stepWith_sclkL hturn hout hp, shiftLeft_eq_ofNat]
  · obtain ⟨hout, hphase⟩ := enginesTurn_inv hinv hturn
    simp only [phaseInv, hp] at hphase
    obtain ⟨-, -, hk, hgone, -⟩ := hphase
    rw [stepWith_sclkL hturn hout hp] at h
    cases h
    have hsucc : (s.k + 1#4).toNat = s.k.toNat + 1 := by bv_omega
    have hk8 : s.k.toNat < 8 := hk
    refine ⟨by simp only [hsucc]; omega, by simp only [hsucc]; omega, fun hlast => ?_⟩
    exact eq_zero_of_eightBitsGone (hlast ▸ shiftLeft_bitsGone hk hgone)

/-- Settles O30: the invariant has Latch low and `K` = 8 on entry, so the write is a rise. -/
theorem phaseLatchHCopiesStore : Obligations.PhaseLatchHCopiesStore := by
  intro park s hinv hturn hp
  obtain ⟨hout, hphase⟩ := enginesTurn_inv hinv hturn
  simp only [phaseInv, hp] at hphase
  obtain ⟨-, hlatch, hk, -⟩ := hphase
  exact ⟨hlatch, hk, issued_of_phase hturn (by simp only [phaseCode, hp]), stepWith_latchH hturn hout hp hlatch⟩

/-- Settles O31: a low write of Latch, and the phase by the reading of `PARK_DATA_LOW`. -/
theorem phaseLatchLEndsPulse : Obligations.PhaseLatchLEndsPulse :=
  fun _ _ hturn hout hp => ⟨issued_of_phase hturn (by simp only [phaseCode, hp]), stepWith_latchL hturn hout hp⟩

/-- Settles O32: a low write of Data. -/
theorem phaseParkDrivesDataLow : Obligations.PhaseParkDrivesDataLow :=
  fun _ _ hturn hout hp => ⟨issued_of_phase hturn (phaseCode_of_park hp), stepWith_park hturn hout hp⟩

/-! ### Where the phases lead -/

/-- No phase is followed by the reserved one (41_shift_engine R93). -/
theorem advance_phase_ne_reserved (park : Bool) {s : State} (hp : s.phase ≠ .reserved) :
    (advance park s).phase ≠ .reserved := by
  cases h : s.phase <;> simp only [advance, h, State.setEngine_phase, ne_eq, reduceCtorEq, not_false_eq_true]
  case sclkL => split <;> decide
  case latchL => split <;> decide
  case reserved => exact absurd h hp

/-- Every phase of a push is followed by another (41_shift_engine R87 to R92). -/
theorem advance_phase_ne_self (park : Bool) {s : State} (hidle : s.phase ≠ .idle) (hres : s.phase ≠ .reserved) :
    (advance park s).phase ≠ s.phase := by
  cases h : s.phase <;> simp only [advance, h, State.setEngine_phase, ne_eq, reduceCtorEq, not_false_eq_true]
  case idle => exact absurd h hidle
  case sclkL => split <;> decide
  case latchL => split <;> decide
  case reserved => exact absurd h hres

/-- The reserved phase has no line operation: the engine refuses (41_shift_engine R93). -/
theorem engineStep_reserved {park : Bool} {s : State} (hp : s.phase = .reserved) :
    engineStep park s = .next (s.markRefused (.badPhase 7#3)) := by
  simp only [engineStep, phaseCode, hp, reduceCtorEq, if_false, raiseRefuse, Phase.code]

/-- The engine's step does not enter the reserved phase. -/
theorem engineStep_phase_ne_reserved {park : Bool} {s t : State} (h : engineStep park s = .next t)
    (hr : s.refusal = none) (hp : s.phase ≠ .reserved) : t.phase ≠ .reserved := by
  obtain ⟨-, rfl⟩ | ⟨-, rfl⟩ | ⟨l, b, -, -, rfl⟩ | ⟨l, b, -, -, rfl⟩ := engineStep_cases h hr
  · exact hp
  · exact hp
  · exact hp
  · exact advance_phase_ne_reserved park (by simpa using hp)

/-- The host's turn leads to IDLE or to DATA. -/
theorem hostTurn_phase_ne_reserved {s t : State} (h : hostTurn s = .next t) (hready : s.ready = true) :
    t.phase ≠ .reserved := by
  obtain ⟨-, -, -, -, -, -, ⟨hp, -⟩ | ⟨hp, -⟩⟩ := hostTurn_frame h hready <;> simp [hp]

/-- Settles O33: phase 7 has no line operation and refuses, and of the cases of a powered step none leads to it. -/
theorem reservedPhaseRefused : Obligations.ReservedPhaseRefused := by
  refine ⟨fun park s hturn hp => ⟨issued_of_phase hturn (by simp only [phaseCode, hp]), ?_⟩,
    fun park s t hpow hp h => ?_⟩
  · rw [stepWith_engine hturn, engineStep_reserved (by simpa using hp)]
    exact congrArg (fun u : State => Host.Outcome.next (u.markRefused (.badPhase 7#3))) (passHold_eq s)
  · obtain ⟨rest, -, rfl⟩ | ⟨d, rest, hin, -⟩ | ⟨-, -, rfl⟩ | ⟨-, -, -, rest, -, rfl⟩ | ⟨-, hready, hhost⟩ |
      ⟨⟨-, -, hr, -⟩, heng⟩ := stepWith_cases h
    · simp
    · exact absurd hpow (not_powered_of_powerCycle hin)
    · simp
    · exact hp
    · exact hostTurn_phase_ne_reserved hhost hready
    · exact engineStep_phase_ne_reserved heng (by simpa using hr) (by simpa using hp)

/-- Every phase but IDLE and the reserved one writes a line (10_state R20). -/
theorem exists_phaseLine {s : State} (hidle : s.phase ≠ .idle) (hres : s.phase ≠ .reserved) :
    ∃ l b, phaseLine s = some (l, b) := by
  cases h : s.phase <;> simp only [phaseLine, h]
  case idle => exact absurd h hidle
  case reserved => exact absurd h hres
  all_goals exact ⟨_, _, rfl⟩

/-- Settles O34: the invariant excludes the reserved phase and has every line an output, so the phase's write is done and
the phase moves on. -/
theorem engineNeverStuck : Obligations.EngineNeverStuck := by
  intro park s hinv hturn
  obtain ⟨hout, hphase⟩ := enginesTurn_inv hinv hturn
  have hres : s.phase ≠ .reserved := fun hp => by simp [phaseInv, hp] at hphase
  have ⟨_, _, hr, hidle⟩ := hturn
  obtain ⟨l, b, hline⟩ := exists_phaseLine hidle hres
  refine ⟨_, stepWith_phase hturn hout hline, by simpa using hr, ?_⟩
  simpa using advance_phase_ne_self park (s := (s.setLevel l b).srReact l (s.level.get l) b)
    (by simpa using hidle) (by simpa using hres)

end Sys2Proof.Machine
end

section
/-! The placement of one instruction (log entries 1 and 17, 30_encoding R71): the step after it runs the instruction. -/
namespace Sys2Proof.Machine

/-! ### Which table words are which placement -/

/-- A table word that decodes is a word on one of the buses, and that word decodes to the same. -/
theorem decodeTableWord_some {nbits w : Nat} {i : Instr} (h : decodeTableWord nbits w = some i) :
    ∃ b, tableBusWord nbits w = some b ∧ decode b = .ok i := by
  unfold decodeTableWord at h
  split at h
  · rename_i b hb
    refine ⟨b, hb, ?_⟩
    cases hd : decode b with
    | ok j => rw [hd] at h; cases h; rfl
    | error r => rw [hd] at h; cases h
  · cases h

/-- Placing a table word that decodes offers the command, or has the agent of the line operation issue it. -/
theorem withFetchWord_cases {nbits w : Nat} {i : Instr} (h : decodeTableWord nbits w = some i) (s : State) :
    (∃ c, decodeCmd c = .ok i ∧ s.withFetchWord nbits w = placeCommand s c) ∨
    (∃ o, decodeLineOp o = .ok i ∧ s.withFetchWord nbits w = placeLineOp s i) := by
  obtain ⟨b, hb, hdec⟩ := decodeTableWord_some h
  unfold State.withFetchWord placeTableWord
  rw [hb]
  cases b with
  | cmd16 c => exact .inl ⟨c, hdec, rfl⟩
  | lineop3 o =>
    have hdec : decodeLineOp o = .ok i := hdec
    exact .inr ⟨o, hdec, by simp only [hdec]⟩

/-! ### A placed command -/

theorem placeCommand_ready (s : State) (c : CmdWord) : (placeCommand s c).ready = true := rfl

theorem placeCommand_cmdOffered (s : State) (c : CmdWord) : (placeCommand s c).cmdOffered = some c := rfl

/-- The step after placing a command executes it. -/
theorem step_placeCommand {c : CmdWord} {i : Instr} (hdec : decodeCmd c = .ok i) (s : State) :
    step (placeCommand s c) = exec i { placeCommand s c with inputs := s.inputs } :=
  stepRunsOfferedCommand.2 _ _ c s.inputs i (placeCommand_ready s c) rfl hdec

/-! ### A placed line write -/

/-- An engine made ready in a phase of a push has its turn. -/
theorem poise_enginesTurn (s : State) (w : Byte) {p : Phase} (hp : p ≠ .idle) : (s.poise w p).enginesTurn :=
  ⟨trivial, rfl, rfl, hp⟩

theorem msbSet_clearMsb (w : Byte) : msbSet (w &&& ~~~ Config.msbMask) = false := by
  revert w; decide

theorem msbSet_setMsb (w : Byte) : msbSet (w ||| Config.msbMask) = true := by
  revert w; decide

/-- The phase in which a line write is placed has its code, and the engine its turn there. -/
theorem placeLineOp_phaseCode {o : LineCode} {i : Instr} (hdec : decodeLineOp o = .ok i) (hi : i ≠ .init) (s : State) :
    (placeLineOp s i).enginesTurn ∧ phaseCode (placeLineOp s i) = some o := by
  have henc := encode_of_decodeLineOp hdec
  cases i with
  | push | clear => cases henc
  | init => exact absurd rfl hi
  | dataLow =>
    cases henc
    exact ⟨poise_enginesTurn s _ (by decide), by simp [placeLineOp, State.poise, phaseCode, msbSet_clearMsb]⟩
  | dataHigh =>
    cases henc
    exact ⟨poise_enginesTurn s _ (by decide), by simp [placeLineOp, State.poise, phaseCode, msbSet_setMsb]⟩
  | sclkLow | sclkHigh | latchLow | latchHigh =>
    cases henc
    exact ⟨poise_enginesTurn s _ (by decide), rfl⟩

/-- The line operations have no failure mode: each answers a next state (20_memory R41, 40_line_driver R82). -/
theorem exec_lineOp_next {o : LineCode} {i : Instr} (hdec : decodeLineOp o = .ok i) (s : State) :
    ∃ t, exec i s = .next t := by
  have henc := encode_of_decodeLineOp hdec
  cases i with
  | push | clear => cases henc
  | dataLow => exact lineWrite_next .data false s
  | dataHigh => exact lineWrite_next .data true s
  | sclkLow => exact lineWrite_next .sclk false s
  | sclkHigh => exact lineWrite_next .sclk true s
  | latchLow => exact lineWrite_next .latch false s
  | latchHigh => exact lineWrite_next .latch true s
  | init => exact ⟨_, rfl⟩

/-- The step after placing a line write issues it, runs it, and moves the engine's registers on unless it was refused. -/
theorem step_placeLineOp {o : LineCode} {i : Instr} (hdec : decodeLineOp o = .ok i) (hi : i ≠ .init) (s : State) :
    issued (placeLineOp s i) = some o ∧ ∃ t, exec i (placeLineOp s i).passHold = .next t ∧
      step (placeLineOp s i) = .next (if t.refusal = none then advance Config.parkDataLow t else t) := by
  obtain ⟨hturn, hcode⟩ := placeLineOp_phaseCode hdec hi s
  obtain ⟨t, hexec⟩ := exec_lineOp_next hdec (placeLineOp s i).passHold
  exact ⟨issued_of_phase hturn hcode, t, hexec, stepRunsPhaseOperation _ _ t o i hturn hcode hdec hexec⟩

/-! ### Every placement -/

/-- Settles O26: a placed command is offered to a ready engine, a placed line write is the code of the phase, and a placed
INIT is an asserted `rst`. -/
theorem placedInstructionRuns : Obligations.PlacedInstructionRuns := by
  rintro s p nbits w i hdec rfl
  obtain ⟨c, hcmd, hplace⟩ | ⟨o, hop, hplace⟩ := withFetchWord_cases hdec s <;> rw [hplace]
  · have henc := encode_of_decodeCmd hcmd
    refine ⟨fun c' hc' => ?_, fun o' ho' => ?_, ?_⟩
    · cases henc.symm.trans hc'
      exact ⟨placeCommand_cmdOffered s c, step_placeCommand hcmd s⟩
    · cases henc.symm.trans ho'
    · rintro rfl
      cases henc
  · have henc := encode_of_decodeLineOp hop
    refine ⟨fun c' hc' => ?_, fun o' ho' hi => ?_, ?_⟩
    · cases henc.symm.trans hc'
    · cases henc.symm.trans ho'
      exact step_placeLineOp hop hi s
    · rintro rfl
      exact ⟨rfl, rfl, s.initLines, rfl, rfl⟩

end Sys2Proof.Machine
end

section
/-! A whole push (41_shift_engine R94 to R103): the state after each line write, the step from each to the next, and by
induction every run and every trace of a push. -/
namespace Sys2Proof.Machine

/-! ### The storage while the byte comes in -/

/-- The storage that held `a` after the top `m` bits of `v` were shifted in (41_shift_engine R97). -/
def shiftedIn (a v : Byte) (m : Nat) : Byte := (a <<< m) ||| (v >>> (8 - m))

theorem shiftedIn_zero (a v : Byte) : shiftedIn a v 0 = a := by
  simp [shiftedIn, BitVec.ushiftRight_eq_zero]

theorem shiftedIn_eight (a v : Byte) : shiftedIn a v 8 = v := by
  simp [shiftedIn]

/-- Shifting the last bit that went out on the right back in undoes one place of the shift. -/
theorem shiftIn_ushiftRight_succ (x : Byte) (j : Nat) :
    x >>> (j + 1) <<< 1 ||| (BitVec.ofBool (x.getLsbD j)).setWidth 8 = x >>> j := by
  rw [BitVec.shiftRight_add]
  ext i hi
  cases i with
  | zero => simp
  | succ i => simp [Nat.add_comm 1 i]

/-- Shifting in one more bit of the byte, the top one of those that are left. -/
theorem shiftedIn_succ (a v : Byte) {m : Nat} (hm : m < 8) :
    BitVec.ofNat 8 (2 * (shiftedIn a v m).toNat + (v.getLsbD (7 - m)).toNat) = shiftedIn a v (m + 1) := by
  have hleft : 8 - m = 7 - m + 1 := by omega
  have hleft' : 8 - (m + 1) = 7 - m := by omega
  rw [← shiftIn_eq, shiftedIn, BitVec.shiftLeft_or_distrib, BitVec.or_assoc, hleft, shiftIn_ushiftRight_succ,
    ← BitVec.shiftLeft_add, shiftedIn, hleft']

/-! ### The states of a push

`s` is the state from which the push starts, with the command taken off its inputs; `v` is the byte. -/

section
variable (park : Bool) (v : Byte) (s : State)

/-- `k` bits are sent: the next bit's Data write is due, or after the eighth LATCH_HIGH. -/
def bitsSent (k : Nat) : State :=
  { s with
    w := v <<< k
    k := BitVec.ofNat 4 k
    phase := if k = 8 then .latchH else .data
    level := ⟨if k = 0 then s.level.data else v.getLsbD (8 - k), false, false⟩
    srStore := shiftedIn s.srStore v k }

/-- Bit number `k`, from the top, is on Data: SCLK_HIGH is due. -/
def bitWritten (k : Nat) : State :=
  { bitsSent v s k with phase := .sclkH, level := ⟨v.getLsbD (7 - k), false, false⟩ }

/-- Bit number `k` is in the storage: SCLK_LOW is due. -/
def bitClocked (k : Nat) : State :=
  { bitsSent v s k with
    phase := .sclkL, level := ⟨v.getLsbD (7 - k), true, false⟩, srStore := shiftedIn s.srStore v (k + 1) }

/-- The outputs show the byte: LATCH_LOW is due. -/
def byteLatched : State :=
  { bitsSent v s 8 with phase := .latchL, level := ⟨v.getLsbD 0, false, true⟩, srStore := v, srOut := v }

/-- Latch is low again: Data is to be parked, or the push is over. -/
def latchDropped : State :=
  { byteLatched v s with phase := if park then .park else .idle, level := ⟨v.getLsbD 0, false, false⟩ }

/-- Data is parked: the push is over. -/
def dataParked : State :=
  { byteLatched v s with phase := .idle, level := ⟨false, false, false⟩ }

/-- The state that a push leaves (41_shift_engine R95, R96, R103). -/
def pushed : State :=
  { s with
    w := 0x00#8
    k := 8#4
    phase := .idle
    level := ⟨if park then false else v.getLsbD 0, false, false⟩
    srStore := v
    srOut := v }

/-- The state after the accept step and `n` line writes: three writes for each bit, then the latch pulse and PARK
(41_shift_engine R94). -/
def pushState (n : Nat) : State :=
  if n < 24 then
    if n % 3 = 0 then bitsSent v s (n / 3) else if n % 3 = 1 then bitWritten v s (n / 3) else bitClocked v s (n / 3)
  else if n = 24 then bitsSent v s 8
  else if n = 25 then byteLatched v s
  else if n = 26 then latchDropped park v s
  else dataParked v s

/-- Line operation number `n` of a push, counted from 0. -/
def pushCode (n : Nat) : LineCode :=
  if n < 24 then
    if n % 3 = 0 then (if v.getLsbD (7 - n / 3) then 0b001#3 else 0b000#3) else if n % 3 = 1 then 0b011#3 else 0b010#3
  else if n = 24 then 0b101#3
  else if n = 25 then 0b100#3
  else 0b000#3

end

section
variable {park : Bool} {v : Byte} {s : State} {k n : Nat}

theorem pushState_bitsSent (hk : k ≤ 8) : pushState park v s (3 * k) = bitsSent v s k := by
  obtain hlt | rfl : k < 8 ∨ k = 8 := by omega
  · rw [pushState, if_pos (by omega), if_pos (by omega), Nat.mul_div_cancel_left k (by decide)]
  · rfl

theorem pushState_bitWritten (hk : k < 8) : pushState park v s (3 * k + 1) = bitWritten v s k := by
  rw [pushState, if_pos (by omega), if_neg (by omega), if_pos (by omega), show (3 * k + 1) / 3 = k by omega]

theorem pushState_bitClocked (hk : k < 8) : pushState park v s (3 * k + 2) = bitClocked v s k := by
  rw [pushState, if_pos (by omega), if_neg (by omega), if_neg (by omega), show (3 * k + 2) / 3 = k by omega]

end

/-- Where a number of line writes stands: at one of the three of a bit, at one of the writes after the bits, or past them. -/
theorem lineWrites_cases (n : Nat) :
    (∃ k ≤ 8, n = 3 * k) ∨ (∃ k < 8, n = 3 * k + 1) ∨ (∃ k < 8, n = 3 * k + 2) ∨ n = 25 ∨ n = 26 ∨ 26 < n := by
  by_cases h24 : n ≤ 24
  · obtain hm | hm | hm : n % 3 = 0 ∨ n % 3 = 1 ∨ n % 3 = 2 := by omega
    · exact .inl ⟨n / 3, by omega, by omega⟩
    · exact .inr (.inl ⟨n / 3, by omega, by omega⟩)
    · exact .inr (.inr (.inl ⟨n / 3, by omega, by omega⟩))
  · omega

/-- A line write of a push is one of the three of a bit, or one of the last two or three. -/
theorem pushWrite_cases {park : Bool} {n : Nat} (h : n < pushWrites park) :
    (∃ k < 8, n = 3 * k) ∨ (∃ k < 8, n = 3 * k + 1) ∨ (∃ k < 8, n = 3 * k + 2) ∨
    n = 24 ∨ n = 25 ∨ (n = 26 ∧ park = true) := by
  have hmost : pushWrites park ≤ 27 := by cases park <;> decide
  have hlast : n = 26 → park = true := by
    rintro rfl
    cases park
    · exact absurd h (by decide)
    · rfl
  obtain ⟨k, hk, rfl⟩ | hdata | hclock | hlatch | hpark | hover := lineWrites_cases n
  · obtain hlt | rfl := hk.lt_or_eq
    · exact .inl ⟨k, hlt, rfl⟩
    · exact .inr (.inr (.inr (.inl rfl)))
  · exact .inr (.inl hdata)
  · exact .inr (.inr (.inl hclock))
  · exact .inr (.inr (.inr (.inr (.inl hlatch))))
  · exact .inr (.inr (.inr (.inr (.inr ⟨hpark, hlast hpark⟩))))
  · omega

/-! ### From each state to the next -/

/-- The passing of a hold depends on the inputs only. -/
theorem passHold_inputs_congr {s t : State} (h : s.inputs = t.inputs) : s.passHold.inputs = t.passHold.inputs := by
  unfold State.passHold
  rw [h]
  cases hin : t.inputs with
  | nil => simp [h, hin]
  | cons i rest => cases i <;> simp [h, hin]

/-- A state with the inputs and the setting of a state at rest, but in another phase than IDLE: the engine has its turn, and
every line is an output. -/
theorem engine_of_atRest {s u : State} (hs : s.atRest) (hu : s.undisturbed) (hin : u.inputs = s.inputs)
    (hi : u.initDone = s.initDone) (hd : u.dir = s.dir) (hr : u.refusal = s.refusal) (hp : u.phase ≠ .idle) :
    u.enginesTurn ∧ u.linesOut ∧ u.passHold.inputs = s.passHold.inputs := by
  obtain ⟨hready, hout, -⟩ := hs
  obtain ⟨hinit, -, hnone⟩ := s.ready_iff.mp hready
  have hu' : u.undisturbed := by rwa [State.undisturbed, hin]
  exact ⟨⟨hu', hi.trans hinit, hr.trans hnone, hp⟩, hd.trans hout, passHold_inputs_congr hin⟩

section
variable {park : Bool} {v : Byte} {s : State} {k : Nat} (hs : s.atRest) (hu : s.undisturbed)
include hs hu

theorem stepWith_bitsSent (hk : k < 8) :
    issued (bitsSent v s k) = some (if v.getLsbD (7 - k) then 0b001#3 else 0b000#3) ∧
    stepWith park (bitsSent v s k) = .next (bitWritten v s.passHold k) := by
  have hp : (bitsSent v s k).phase = .data := if_neg (by omega)
  have htop : (bitsSent v s k).w.getLsbD 7 = v.getLsbD (7 - k) := by
    have hk7 : k ≤ 7 := by omega
    simp only [bitsSent, BitVec.getLsbD_shiftLeft, Nat.not_lt.mpr hk7, decide_false, Bool.not_false]
    rfl
  obtain ⟨hturn, hout, hpass⟩ := engine_of_atRest hs hu (u := bitsSent v s k) rfl rfl rfl rfl (by simp [hp])
  obtain ⟨hissued, hstep⟩ := phaseDataWritesTopBit park _ hturn hout hp
  rw [hissued, hstep, htop, hpass, passHold_eq s]
  exact ⟨rfl, rfl⟩

theorem stepWith_bitWritten (hk : k < 8) :
    issued (bitWritten v s k) = some 0b011#3 ∧
    stepWith park (bitWritten v s k) = .next (bitClocked v s.passHold k) := by
  obtain ⟨hturn, hout, hpass⟩ := engine_of_atRest hs hu (u := bitWritten v s k) rfl rfl rfl rfl (by simp [bitWritten])
  refine ⟨issued_of_phase hturn rfl, ?_⟩
  rw [stepWith_sclkH hturn hout rfl rfl, hpass, passHold_eq s, bitClocked, State.setInputs_srStore,
    ← shiftedIn_succ s.srStore v hk]
  rfl

theorem stepWith_bitClocked (hk : k < 8) :
    issued (bitClocked v s k) = some 0b010#3 ∧
    stepWith park (bitClocked v s k) = .next (bitsSent v s.passHold (k + 1)) := by
  obtain ⟨hturn, hout, hpass⟩ := engine_of_atRest hs hu (u := bitClocked v s k) rfl rfl rfl rfl (by simp [bitClocked])
  refine ⟨issued_of_phase hturn rfl, ?_⟩
  have hw : shiftLeft (v <<< k) = v <<< (k + 1) := (BitVec.shiftLeft_add v k 1).symm
  have hcount : BitVec.ofNat 4 k + 1#4 = BitVec.ofNat 4 (k + 1) := (BitVec.ofNat_add k 1).symm
  have hlast : BitVec.ofNat 4 (k + 1) = 8#4 ↔ k + 1 = 8 := by bv_omega
  rw [stepWith_sclkL hturn hout rfl, hpass, passHold_eq s]
  simp [bitClocked, bitsSent, hw, hcount, hlast, State.setInputs]

theorem stepWith_eightSent :
    issued (bitsSent v s 8) = some 0b101#3 ∧ stepWith park (bitsSent v s 8) = .next (byteLatched v s.passHold) := by
  obtain ⟨hturn, hout, hpass⟩ := engine_of_atRest hs hu (u := bitsSent v s 8) rfl rfl rfl rfl (by simp [bitsSent])
  refine ⟨issued_of_phase hturn rfl, ?_⟩
  have hstore : (bitsSent v s 8).srStore = v := shiftedIn_eight s.srStore v
  rw [stepWith_latchH hturn hout rfl rfl, hpass, passHold_eq s, hstore, byteLatched]
  rfl

theorem stepWith_byteLatched :
    issued (byteLatched v s) = some 0b100#3 ∧
    stepWith park (byteLatched v s) = .next (latchDropped park v s.passHold) := by
  obtain ⟨hturn, hout, hpass⟩ := engine_of_atRest hs hu (u := byteLatched v s) rfl rfl rfl rfl (by simp [byteLatched])
  refine ⟨issued_of_phase hturn rfl, ?_⟩
  rw [stepWith_latchL hturn hout rfl, hpass, passHold_eq s]
  rfl

theorem stepWith_latchDropped :
    issued (latchDropped true v s) = some 0b000#3 ∧
    stepWith park (latchDropped true v s) = .next (dataParked v s.passHold) := by
  obtain ⟨hturn, hout, hpass⟩ :=
    engine_of_atRest hs hu (u := latchDropped true v s) rfl rfl rfl rfl (by simp [latchDropped])
  refine ⟨issued_of_phase hturn rfl, ?_⟩
  rw [stepWith_park hturn hout rfl, hpass, passHold_eq s]
  rfl

end

/-! ### Every step of a push -/

section
variable {v : Byte} {k n : Nat}

theorem pushCode_bitsSent (hk : k < 8) :
    pushCode v (3 * k) = if v.getLsbD (7 - k) then 0b001#3 else 0b000#3 := by
  rw [pushCode, if_pos (by omega), if_pos (by omega), Nat.mul_div_cancel_left k (by decide)]

theorem pushCode_bitWritten (hk : k < 8) : pushCode v (3 * k + 1) = 0b011#3 := by
  rw [pushCode, if_pos (by omega), if_neg (by omega), if_pos (by omega)]

theorem pushCode_bitClocked (hk : k < 8) : pushCode v (3 * k + 2) = 0b010#3 := by
  rw [pushCode, if_pos (by omega), if_neg (by omega), if_neg (by omega)]

end

section
variable {park : Bool} {v : Byte} {s : State} {n : Nat}

/-- Each line write of a push: its operation, and the step from the state before it to the state after it. The host's pending
hold passes in it (41_shift_engine R87 to R92, R94). -/
theorem stepWith_pushState (hs : s.atRest) (hu : s.undisturbed) (hn : n < pushWrites park) :
    issued (pushState park v s n) = some (pushCode v n) ∧
    stepWith park (pushState park v s n) = .next (pushState park v s.passHold (n + 1)) := by
  obtain ⟨k, hk, rfl⟩ | ⟨k, hk, rfl⟩ | ⟨k, hk, rfl⟩ | rfl | rfl | ⟨rfl, rfl⟩ := pushWrite_cases hn
  · rw [pushState_bitsSent hk.le, pushState_bitWritten hk, pushCode_bitsSent hk]
    exact stepWith_bitsSent hs hu hk
  · rw [pushState_bitWritten hk, pushState_bitClocked hk, pushCode_bitWritten hk]
    exact stepWith_bitWritten hs hu hk
  · rw [pushState_bitClocked hk, pushCode_bitClocked hk, show 3 * k + 2 + 1 = 3 * (k + 1) from rfl,
      pushState_bitsSent hk]
    exact stepWith_bitClocked hs hu hk
  · exact stepWith_eightSent hs hu
  · exact stepWith_byteLatched hs hu
  · exact stepWith_latchDropped hs hu

/-- A push is not over before its last line write. -/
theorem pushState_not_ready (hn : n < pushWrites park) : (pushState park v s n).ready = false := by
  have hbusy : (pushState park v s n).phase ≠ .idle := by
    obtain ⟨k, hk, rfl⟩ | ⟨k, hk, rfl⟩ | ⟨k, hk, rfl⟩ | rfl | rfl | ⟨rfl, rfl⟩ := pushWrite_cases hn
    · rw [pushState_bitsSent hk.le]
      simp [bitsSent, hk.ne]
    · rw [pushState_bitWritten hk]
      simp [bitWritten]
    · rw [pushState_bitClocked hk]
      simp [bitClocked]
    · simp [pushState, bitsSent]
    · simp [pushState, byteLatched]
    · simp [pushState, latchDropped]
  simp [State.ready, hbusy]

/-- Every state of a push, with the numbers of line writes after which it is met. -/
theorem pushState_cases (n : Nat) :
    (∃ k ≤ 8, n = 3 * k ∧ pushState park v s n = bitsSent v s k) ∨
    (∃ k < 8, n = 3 * k + 1 ∧ pushState park v s n = bitWritten v s k) ∨
    (∃ k < 8, n = 3 * k + 2 ∧ pushState park v s n = bitClocked v s k) ∨
    (n = 25 ∧ pushState park v s n = byteLatched v s) ∨
    (n = 26 ∧ pushState park v s n = latchDropped park v s) ∨
    (26 < n ∧ pushState park v s n = dataParked v s) := by
  obtain ⟨k, hk, rfl⟩ | ⟨k, hk, rfl⟩ | ⟨k, hk, rfl⟩ | rfl | rfl | h := lineWrites_cases n
  · exact .inl ⟨k, hk, rfl, pushState_bitsSent hk⟩
  · exact .inr (.inl ⟨k, hk, rfl, pushState_bitWritten hk⟩)
  · exact .inr (.inr (.inl ⟨k, hk, rfl, pushState_bitClocked hk⟩))
  · exact .inr (.inr (.inr (.inl ⟨rfl, rfl⟩)))
  · exact .inr (.inr (.inr (.inr (.inl ⟨rfl, rfl⟩))))
  · refine .inr (.inr (.inr (.inr (.inr ⟨h, ?_⟩))))
    rw [pushState, if_neg (by omega), if_neg (by omega), if_neg (by omega), if_neg (by omega)]

/-- The storage after `n` line writes: the second of each bit's three is the ShiftClock rise (41_shift_engine R97). -/
theorem pushState_srStore (n : Nat) :
    (pushState park v s n).srStore = shiftedIn s.srStore v (min 8 ((n + 1) / 3)) := by
  obtain ⟨k, hk, hn, h⟩ | ⟨k, hk, hn, h⟩ | ⟨k, hk, hn, h⟩ | ⟨hn, h⟩ | ⟨hn, h⟩ | ⟨hn, h⟩ :=
    pushState_cases (park := park) (v := v) (s := s) n <;> rw [h]
  · rw [show min 8 ((n + 1) / 3) = k by omega]
    rfl
  · rw [show min 8 ((n + 1) / 3) = k by omega]
    rfl
  · rw [show min 8 ((n + 1) / 3) = k + 1 by omega]
    rfl
  all_goals
    rw [show min 8 ((n + 1) / 3) = 8 by omega, shiftedIn_eight]
    rfl

/-- The outputs after `n` line writes: number 24, counted from 0, is LATCH_HIGH (41_shift_engine R97). -/
theorem pushState_srOut (n : Nat) : (pushState park v s n).srOut = if n < 25 then s.srOut else v := by
  obtain ⟨k, hk, hn, h⟩ | ⟨k, hk, hn, h⟩ | ⟨k, hk, hn, h⟩ | ⟨hn, h⟩ | ⟨hn, h⟩ | ⟨hn, h⟩ :=
    pushState_cases (park := park) (v := v) (s := s) n <;> rw [h]
  · exact (if_pos (by omega)).symm
  · exact (if_pos (by omega)).symm
  · exact (if_pos (by omega)).symm
  all_goals exact (if_neg (by omega)).symm

/-- No line write is done: the state is the one that the accept step leaves (41_shift_engine R85). -/
theorem pushState_zero (hsclk : s.level.sclk = false) (hlatch : s.level.latch = false) :
    pushState park v s 0 = s.setEngine v 0#4 .data := by
  obtain ⟨w, k, phase, initDone, ⟨data, sclk, latch⟩, dir, portRest, srStore, srOut, refusal, inputs⟩ := s
  subst (hsclk : sclk = false)
  subst (hlatch : latch = false)
  simp [pushState, bitsSent, shiftedIn_zero, State.setEngine]

end

/-! ### Every run of a push -/

theorem runWith_succ_of_next {park : Bool} {n : Nat} {s t : State} (h : stepWith park s = .next t) :
    runWith park (n + 1) s = runWith park n t := by
  rw [runWith, h]

theorem traceWith_succ_of_next {park : Bool} {n : Nat} {s t : State} (h : stepWith park s = .next t) :
    traceWith park (n + 1) s = (issued s).toList ++ traceWith park n t := by
  rw [traceWith, h]

/-- A host that holds asks for no reset in the step, and no hold of its passes. -/
theorem undisturbed_of_hostHolds {s : State} (h : hostHolds s.inputs) : s.undisturbed ∧ s.passHold = s := by
  unfold State.undisturbed State.passHold
  cases hin : s.inputs with
  | nil => exact ⟨trivial, rfl⟩
  | cons i rest =>
    rw [hin] at h
    cases i with
    | command | wait => exact ⟨trivial, rfl⟩
    | reset | hold | powerCycle => exact h.elim

section
variable {park : Bool} {v : Byte} {s : State} (hs : s.atRest) (hholds : hostHolds s.inputs)
include hs hholds

theorem stepWith_pushState_holding {n : Nat} (hn : n < pushWrites park) :
    issued (pushState park v s n) = some (pushCode v n) ∧
    stepWith park (pushState park v s n) = .next (pushState park v s (n + 1)) := by
  obtain ⟨hu, hpass⟩ := undisturbed_of_hostHolds hholds
  have hstep := stepWith_pushState (v := v) hs hu hn
  rwa [hpass] at hstep

/-- The run from line write `m` to line write `m + n`. -/
theorem runWith_pushState (m n : Nat) (hn : m + n ≤ pushWrites park) :
    runWith park n (pushState park v s m) = .next (pushState park v s (m + n)) := by
  induction n generalizing m with
  | zero => rfl
  | succ n ih =>
    obtain ⟨-, hstep⟩ := stepWith_pushState_holding (v := v) hs hholds (show m < pushWrites park by omega)
    rw [runWith_succ_of_next hstep, ih (m + 1) (by omega), Nat.add_right_comm, Nat.add_assoc]

/-- The trace from line write `m` to line write `m + n`. -/
theorem traceWith_pushState (m n : Nat) (hn : m + n ≤ pushWrites park) :
    traceWith park n (pushState park v s m) = (List.range' m n).map (pushCode v) := by
  induction n generalizing m with
  | zero => rfl
  | succ n ih =>
    obtain ⟨hissued, hstep⟩ := stepWith_pushState_holding (v := v) hs hholds (show m < pushWrites park by omega)
    rw [traceWith_succ_of_next hstep, hissued, ih (m + 1) (by omega), List.range'_succ, List.map_cons]
    rfl

end

/-- The engine takes the word `c` as a push of `v`. -/
def Pushes (c : CmdWord) (v : Byte) : Prop := ∀ s : State, offerWord c s = acceptPush v s

/-- The word of PUSH, as 30_encoding R66 writes it, pushes its byte. -/
theorem pushes_pushWord (v : Byte) : Pushes ((v.setWidth 16 <<< 8) ||| 0x0001#16) v := by
  rw [← pushWord_eq_or]
  exact offerWord_of_decodeCmd (decodeCmd_pushWord v)

/-- CLEAR pushes 0x00 (41_shift_engine R99). -/
theorem pushes_clearWord : Pushes 0x0002#16 0x00#8 := fun _ => rfl

section
variable {park : Bool} {s : State} {c : CmdWord} {v : Byte} {rest : List Input} (hs : s.atRest)
  (hin : s.inputs = .command c :: rest) (hc : Pushes c v)
include hs hin hc

/-- The accept step issues nothing and starts the push (41_shift_engine R85, R86). -/
theorem stepWith_accept :
    issued s = none ∧ stepWith park s = .next (pushState park v (s.setInputs rest) 0) := by
  obtain ⟨hready, -, hsclk, hlatch⟩ := hs
  obtain ⟨hi, hp, hr⟩ := s.ready_iff.mp hready
  refine ⟨by simp [issued_undisturbed (undisturbed_of_command hin), phaseCode, hi, hp], ?_⟩
  rw [stepWith_command hready hin, hc, acceptPush_of_ready v (s.setInputs_ready rest ▸ hready)]
  rw [pushState_zero (s := s.setInputs rest) hsclk hlatch]

variable (hholds : hostHolds rest)
include hholds

/-- The state after the accept step and `n` line writes. -/
theorem runWith_push {n : Nat} (hn : n ≤ pushWrites park) :
    runWith park (1 + n) s = .next (pushState park v (s.setInputs rest) n) := by
  obtain ⟨-, hstep⟩ := stepWith_accept (park := park) hs hin hc
  rw [Nat.add_comm, runWith_succ_of_next hstep,
    runWith_pushState (s := s.setInputs rest) hs hholds 0 n (by omega), Nat.zero_add]

/-- The trace of the accept step and `n` line writes. -/
theorem traceWith_push {n : Nat} (hn : n ≤ pushWrites park) :
    traceWith park (1 + n) s = (List.range n).map (pushCode v) := by
  obtain ⟨hissued, hstep⟩ := stepWith_accept (park := park) hs hin hc
  rw [Nat.add_comm, traceWith_succ_of_next hstep, hissued,
    traceWith_pushState (s := s.setInputs rest) hs hholds 0 n (by omega), ← List.range_eq_range']
  rfl

end

/-- The operations of a whole push are the protocol's trace (41_shift_engine R94). -/
theorem map_pushCode_eq_pushTrace (park : Bool) (v : Byte) :
    (List.range (pushWrites park)).map (pushCode v) = pushTrace park v := by
  cases park <;> rfl

/-! ### What a push leaves -/

/-- The last line write of a push, LATCH_LOW or PARK's, leaves this state. -/
theorem pushState_last (park : Bool) (v : Byte) (s : State) : pushState park v s (pushWrites park) = pushed park v s := by
  cases park <;> simp [pushState, pushWrites, pushed, latchDropped, dataParked, byteLatched, bitsSent]

/-- After a push another command may come. -/
theorem pushed_atRest {park : Bool} {v : Byte} {s : State} (hs : s.atRest) : (pushed park v s).atRest := by
  obtain ⟨hready, hout, -⟩ := hs
  obtain ⟨hi, -, hr⟩ := s.ready_iff.mp hready
  exact ⟨(State.ready_iff _).mpr ⟨hi, rfl, hr⟩, hout, rfl, rfl⟩

theorem pushed_ready {park : Bool} {v : Byte} {s : State} (hs : s.atRest) : (pushed park v s).ready = true := by
  obtain ⟨hready, -⟩ := pushed_atRest (park := park) (v := v) hs
  exact hready

/-- The run of a whole push (41_shift_engine R95). -/
theorem runWith_wholePush (park : Bool) {s : State} {c : CmdWord} {v : Byte} {rest : List Input} (hs : s.atRest)
    (hin : s.inputs = .command c :: rest) (hc : Pushes c v) (hholds : hostHolds rest) :
    runWith park (1 + pushWrites park) s = .next (pushed park v (s.setInputs rest)) := by
  rw [runWith_push hs hin hc hholds le_rfl, pushState_last]

/-- Settles O37: the state after the last line write. -/
theorem pushReachesOutputs : Obligations.PushReachesOutputs :=
  fun park s v rest hs hholds hin =>
    ⟨pushed park v (s.setInputs rest), runWith_wholePush park hs hin (pushes_pushWord v) hholds, rfl,
      pushed_ready (s := s.setInputs rest) hs, fun _ => rfl⟩

/-- Settles O41: the state that the first push leaves is one from which the second starts. -/
theorem secondPushLeavesNoResidue : Obligations.SecondPushLeavesNoResidue := by
  intro park s a b rest hs hholds hin
  have hfirst := runWith_wholePush park hs hin (pushes_pushWord a) trivial
  have hsecond := runWith_wholePush park (s := pushed park a (s.setInputs (_ :: rest))) (pushed_atRest hs) rfl
    (pushes_pushWord b) hholds
  have hboth := (runWith_add park _ _ hfirst).trans hsecond
  have hready : (pushed park b (pushed park a s)).ready = true := pushed_ready (pushed_atRest hs)
  rw [Nat.two_mul]
  exact ⟨_, hboth, rfl, rfl, hready⟩

/-! ### The trace of a push -/

/-- Settles O38: the operations of a push are `pushTrace`. -/
theorem pushTraceIsProtocol : Obligations.PushTraceIsProtocol :=
  fun park _ v _ hs hholds hin =>
    (traceWith_push hs hin (pushes_pushWord v) hholds le_rfl).trans (map_pushCode_eq_pushTrace park v)

/-- A push issues SCLK_HIGH as the second of each bit's three operations. -/
theorem pushCode_eq_sclkHigh_iff (v : Byte) (n : Nat) : pushCode v n = 0b011#3 ↔ n < 24 ∧ n % 3 = 1 := by
  unfold pushCode
  split_ifs <;> simp_all

/-- A push issues LATCH_HIGH after the operations of the eight bits only. -/
theorem pushCode_eq_latchHigh_iff (v : Byte) (n : Nat) : pushCode v n = 0b101#3 ↔ n = 24 := by
  unfold pushCode
  split_ifs <;> simp_all <;> omega

/-- How many of the first `n` operations of a push are SCLK_HIGH (41_shift_engine R97). -/
theorem count_sclkHigh (v : Byte) (n : Nat) :
    ((List.range n).map (pushCode v)).count 0b011#3 = min 8 ((n + 1) / 3) := by
  induction n with
  | zero => rfl
  | succ n ih =>
    rw [List.range_succ, List.map_append, List.count_append, ih, List.map_singleton, List.count_singleton]
    simp only [beq_iff_eq, pushCode_eq_sclkHigh_iff]
    split <;> omega

/-- Settles O40: the closed forms of the storage, the outputs and the count of the rises. -/
theorem outputsHoldUntilLatch : Obligations.OutputsHoldUntilLatch := by
  intro park s v rest n hs hholds hin hn
  have hpush := pushes_pushWord v
  refine ⟨_, runWith_push hs hin hpush hholds hn, ?_, pushState_srStore n, pushState_srOut n⟩
  rw [traceWith_push hs hin hpush hholds hn, count_sclkHigh]

/-- How often each line is written for one bit: one write of Data and one ShiftClock pulse (41_shift_engine R94). -/
theorem count_bitTrace (v : Byte) (i : Nat) :
    (bitTrace v i).count 0b011#3 = 1 ∧ (bitTrace v i).count 0b010#3 = 1 ∧ (bitTrace v i).count 0b101#3 = 0 ∧
    (bitTrace v i).count 0b100#3 = 0 ∧ (bitTrace v i).count 0b000#3 + (bitTrace v i).count 0b001#3 = 1 := by
  unfold bitTrace
  split <;> decide

/-- How often each line is written in a push (41_shift_engine R101, R103). -/
theorem count_pushTrace (park : Bool) (v : Byte) :
    (pushTrace park v).count 0b011#3 = 8 ∧ (pushTrace park v).count 0b010#3 = 8 ∧
    (pushTrace park v).count 0b101#3 = 1 ∧ (pushTrace park v).count 0b100#3 = 1 ∧
    (pushTrace park v).count 0b000#3 + (pushTrace park v).count 0b001#3 = if park then 9 else 8 := by
  have hbits := count_bitTrace v
  simp only [forall_and] at hbits
  obtain ⟨h1, h2, h3, h4, h5⟩ := hbits
  cases park <;> simp [pushTrace, List.flatMap_cons, h1, h2, h3, h4]
  all_goals linarith [h5 7, h5 6, h5 5, h5 4, h5 3, h5 2, h5 1, h5 0]

theorem length_pushTrace (park : Bool) (v : Byte) : (pushTrace park v).length = pushWrites park := by
  rw [← map_pushCode_eq_pushTrace, List.length_map, List.length_range]

theorem pushCode_of_getElem? {park : Bool} {v : Byte} {i : Nat} {o : LineCode} (h : (pushTrace park v)[i]? = some o) :
    pushCode v i = o := by
  rw [← map_pushCode_eq_pushTrace] at h
  obtain ⟨hi, hget⟩ := List.getElem?_eq_some_iff.mp h
  simpa using hget

/-- In a push LATCH_HIGH comes after every SCLK_HIGH (41_shift_engine R94). -/
theorem sclkHigh_lt_latchHigh {park : Bool} {v : Byte} {i j : Nat} (hi : (pushTrace park v)[i]? = some 0b011#3)
    (hj : (pushTrace park v)[j]? = some 0b101#3) : i < j := by
  obtain ⟨hlt, -⟩ := (pushCode_eq_sclkHigh_iff v i).mp (pushCode_of_getElem? hi)
  rwa [(pushCode_eq_latchHigh_iff v j).mp (pushCode_of_getElem? hj)]

/-- Settles O39: `ready` along the run, and the counts of `pushTrace`. -/
theorem pushLength : Obligations.PushLength := by
  intro park s v rest hs hholds hin
  have hpush := pushes_pushWord v
  refine ⟨fun n hn => ⟨_, runWith_push hs hin hpush hholds hn.le, pushState_not_ready hn⟩,
    ⟨_, runWith_wholePush park hs hin hpush hholds, pushed_ready (s := s.setInputs rest) hs⟩, ?_⟩
  intro tr
  have htr : tr = pushTrace park v := pushTraceIsProtocol park s v rest hs hholds hin
  obtain ⟨hclock, hdrop, hlatch, hdropped, hdata⟩ := count_pushTrace park v
  rw [htr]
  exact ⟨length_pushTrace park v, hclock, hdrop, hlatch, hdropped, hdata, fun _ _ => sclkHigh_lt_latchHigh⟩

/-! ### CLEAR -/

/-- Settles O42: both words push 0x00, so both accept steps lead to the same state. -/
theorem clearIsPushZero : Obligations.ClearIsPushZero := by
  refine ⟨fun _ => rfl, fun park s rest hs hholds hin => ⟨?_, ?_, ?_⟩⟩
  · have hzero := runWith_wholePush park (s := s.setInputs (.command 0x0001#16 :: rest)) hs rfl
      (pushes_pushWord 0x00#8) hholds
    exact (runWith_wholePush park hs hin pushes_clearWord hholds).trans hzero.symm
  · refine (traceWith_push hs hin pushes_clearWord hholds le_rfl).trans ?_
    rw [map_pushCode_eq_pushTrace]
    rfl
  · exact ⟨_, runWith_wholePush park hs hin pushes_clearWord hholds, rfl⟩

end Sys2Proof.Machine
end

section
/-! The host's side of a command: while `ready` = 0 it waits and cannot be executed, and the step that meets it where `ready` =
1 takes it off (42_host_interface R106, 93_implementation_defined I12). -/
namespace Sys2Proof.Machine

/-! ### A command that reaches a busy engine -/

/-- Loading a command has `ready` = 1 as its precondition (42_host_interface R106). -/
theorem acceptPush_of_not_ready (v : Byte) {s : State} (h : s.ready = false) :
    acceptPush v s = .fault .commandWhileNotReady :=
  if_neg (by simp [h])

/-- Settles O22: both commands begin with the accept step, which faults where `ready` = 0. -/
theorem commandNeedsReady : Obligations.CommandNeedsReady :=
  fun v _ h => ⟨acceptPush_of_not_ready v h, acceptPush_of_not_ready 0x00#8 h⟩

/-! ### The inputs while the host holds -/

@[simp] theorem advance_inputs (park : Bool) (s : State) : (advance park s).inputs = s.inputs := by
  obtain ⟨w, k, p, h⟩ := advance_eq_setEngine park s
  rw [h, State.setEngine_inputs]

/-- The engine's own step takes off no input. -/
theorem engineStep_inputs {park : Bool} {s t : State} (h : engineStep park s = .next t) (hr : s.refusal = none) :
    t.inputs = s.inputs := by
  obtain ⟨-, rfl⟩ | ⟨-, rfl⟩ | ⟨l, b, -, -, rfl⟩ | ⟨l, b, -, -, rfl⟩ := engineStep_cases h hr <;> simp

/-- While `ready` = 0 a holding host's moves, a WAIT as well as a command, stay as they are (42_host_interface R106): the step is
the reset sequence that is due or the engine's. -/
theorem stepWith_inputs_of_not_ready {park : Bool} {s t : State} (hholds : hostHolds s.inputs) (hbusy : s.ready = false)
    (h : stepWith park s = .next t) : t.inputs = s.inputs := by
  obtain ⟨hu, hpass⟩ := undisturbed_of_hostHolds hholds
  obtain ⟨rest, hin, -⟩ | ⟨d, rest, hin, -⟩ | ⟨-, -, rfl⟩ | ⟨-, -, -, rest, hin, -⟩ | ⟨-, hready, -⟩ | ⟨⟨-, -, hr, -⟩, heng⟩ :=
    stepWith_cases h
  · simp [hin, hostHolds] at hholds
  · simp [hin, hostHolds] at hholds
  · rfl
  · simp [hin, hostHolds] at hholds
  · simp [hbusy] at hready
  · rw [hpass] at heng
    exact engineStep_inputs heng hr

/-! ### The step that meets the command -/

/-- The command that comes next is offered exactly where `ready` = 1 (42_host_interface R105, R106). -/
theorem cmdOffered_of_command {s : State} {c : CmdWord} {rest : List Input} (h : s.inputs = .command c :: rest) :
    s.cmdOffered = if s.ready then some c else none := by
  simp [State.cmdOffered, h]

/-- After the accept step the engine is in a push, so `ready` = 0 (41_shift_engine R85). -/
@[simp] theorem setEngine_data_ready (s : State) (w : Byte) (k : BitCount) : (s.setEngine w k .data).ready = false := by
  simp [State.ready]

/-- An offered word, accepted or refused, makes `ready` = 0 and touches no later input. -/
theorem offerWord_ready_inputs {c : CmdWord} {s t : State} (h : offerWord c s = .next t) :
    t.ready = false ∧ t.inputs = s.inputs := by
  obtain ⟨v, -, rfl⟩ | ⟨r, -, rfl⟩ := offerWord_cases h <;> simp

/-- Settles O36: a busy step is not the host's and leaves the inputs; a ready one takes off the command and offers its word to
the engine, which is not ready after it. -/
theorem hostHoldsWhileBusy : Obligations.HostHoldsWhileBusy := by
  intro park s t c rest hin h
  have hoffered := cmdOffered_of_command hin
  refine ⟨fun hbusy => ⟨?_, by simp [hoffered, hbusy]⟩, fun hready => ?_⟩
  · exact stepWith_inputs_of_not_ready (by simp [hin, hostHolds]) hbusy h
  · rw [stepWith_command hready hin] at h
    obtain ⟨hbusy, hrest⟩ := offerWord_ready_inputs h
    exact ⟨hrest, by simp [hoffered, hready], hbusy⟩

end Sys2Proof.Machine
end

section
/-! Refusals (60_exceptions R116, R117): under the invariant a step refuses only a reserved word that the host offered, such a
word sets the mark and writes nothing else, and after it a host that would move finds no step. -/
namespace Sys2Proof.Machine

/-! ### Where a refusal comes from -/

/-- The host's turn refuses only the word that comes next, for the decoder's reason (60_exceptions R116). -/
theorem hostTurn_refusal {s t : State} {r : RefuseReason} (h : hostTurn s = .next t) (hr : s.refusal = none)
    (ht : t.refusal = some r) : ∃ c rest, s.inputs = .command c :: rest ∧ decodeCmd c = .error r := by
  obtain ⟨c, rest, v, -, -, rfl⟩ | ⟨c, rest, r', hin, hdec, rfl⟩ | ⟨l, rfl⟩ := hostTurn_cases h
  · simp [hr] at ht
  · cases ht
    exact ⟨c, rest, hin, hdec⟩
  · simp [hr] at ht

/-- Under the invariant a step that leaves a refusal is the host's: the engine's step refuses nothing, and the reset sequence and
a power loss keep the mark as it was. -/
theorem hostTurn_of_refusal {park : Bool} {s t : State} {r : RefuseReason} (hinv : sequencerInv park s)
    (hr : s.refusal = none) (h : stepWith park s = .next t) (ht : t.refusal = some r) :
    s.ready = true ∧ hostTurn s = .next t := by
  obtain ⟨rest, -, rfl⟩ | ⟨d, rest, -, rfl⟩ | ⟨-, -, rfl⟩ | ⟨-, -, hrefused, -⟩ | ⟨-, hready, hhost⟩ | ⟨hturn, -⟩ :=
    stepWith_cases h
  · simp [hr] at ht
  · simp [powerCycle, hr] at ht
  · simp [hr] at ht
  · exact absurd hr hrefused
  · exact ⟨hready, hhost⟩
  · obtain ⟨u, hu, hnone, -⟩ := engineNeverStuck park s hinv hturn
    cases h.symm.trans hu
    simp [hnone] at ht

/-- Settles O52: the refusing step is the host's, `ready` = 1 makes its word an offered one, and the decoder has three reasons. -/
theorem onlyReservedWordsRefused : Obligations.OnlyReservedWordsRefused := by
  intro park s t r hinv hr h ht
  obtain ⟨hready, hhost⟩ := hostTurn_of_refusal hinv hr h ht
  obtain ⟨c, rest, hin, hdec⟩ := hostTurn_refusal hhost hr ht
  refine ⟨c, by simp [cmdOffered_of_command hin, hready], hdec, ?_⟩
  obtain hbits | hop | himm := decodeCmd_error hdec
  · exact .inr (.inl hbits)
  · exact .inl hop
  · exact .inr (.inr himm)

/-! ### The step that refuses a word -/

theorem offerWord_of_decodeCmd_error {c : CmdWord} {r : RefuseReason} (h : decodeCmd c = .error r) (s : State) :
    offerWord c s = .next (s.markRefused r) := by
  simp only [offerWord, h, raiseRefuse]

/-- Settles O24: the host's turn offers the word, and the decoder's reason is recorded. -/
theorem reservedWordMarksRefused : Obligations.ReservedWordMarksRefused := by
  intro park s c rest r hready hin hdec
  refine ⟨(s.setInputs rest).markRefused r, ?_, rfl, rfl, State.markRefused_ready ..⟩
  rw [stepWith_command hready hin, offerWord_of_decodeCmd_error hdec]

/-! ### After the refusal -/

/-- In a refused state only a hold passes: for a host that would move, or has no move left, there is no step. -/
theorem refusedTurn_of_hostHolds {s : State} (r : RefuseReason) (h : hostHolds s.inputs) :
    refusedTurn r s = .refused (.afterRefuse r) := by
  unfold refusedTurn
  split
  · rename_i hin
    simp [hin, hostHolds] at h
  · rfl

/-- Settles O51: with no `rst` and no power loss the step is the agent's, and in a refused state that is the refused turn. -/
theorem refusedRunStops : Obligations.RefusedRunStops := by
  intro park s r hi hr hholds
  obtain ⟨hu, -⟩ := undisturbed_of_hostHolds hholds
  have hturn : agentStep park s = refusedTurn r s := by simp [agentStep, hi, hr]
  rw [stepWith_undisturbed hu, hturn, refusedTurn_of_hostHolds r hholds]

end Sys2Proof.Machine
end


section
/-! The reset sequence (70_reset_and_hazards R128 to R132): one step from any state, what it leaves, and a push that it aborts;
and in which step Latch rises (R137). -/
namespace Sys2Proof.Machine

/-! ### The step with `rst` -/

/-- An asserted `rst` replaces whatever step was due (70_reset_and_hazards R129, R131). -/
theorem stepWith_reset (park : Bool) {s : State} {rest : List Input} (h : s.inputs = .reset :: rest) :
    stepWith park s = .next ((s.setInputs rest).initLines.setEngine 0x00#8 0#4 .idle) := by
  rw [stepWith, h]
  exact resetSequence_eq _

/-- Settles O46: the reset sequence, asked for by `rst` or due at power-up. -/
theorem resetSequenceStep : Obligations.ResetSequenceStep := by
  refine ⟨fun park s rest hin => ⟨?_, issued_of_reset hin, stepWith_reset park hin⟩,
    fun park s hi hu => ⟨?_, stepWith_resetDue hu hi⟩⟩
  · simp [State.rstAsserted, hin]
  · simp [issued_undisturbed hu, hi]

/-- After the reset sequence `ready` = 1 unless `refused` = 1 (70_reset_and_hazards R130). -/
theorem resetSequence_ready (s : State) : (s.initLines.setEngine 0x00#8 0#4 .idle).ready = !s.refused := rfl

/-- Settles O47: the sequencer's invariant holds after the reset sequence, and in IDLE it implies the line-idle condition. -/
theorem resetMakesReady : Obligations.ResetMakesReady := by
  intro park s t rest hin h
  cases (stepWith_reset park hin).symm.trans h
  have hinv := sequencerInv_resetSequence park (s.setInputs rest)
  exact ⟨rfl, resetSequence_ready (s.setInputs rest), fun l => by cases l <;> exact ⟨rfl, rfl⟩,
    linesIdle_of_sequencerInv hinv rfl rfl, hinv⟩

/-- Settles O54: State.reset is a state that the reset sequence leaves, and at power-up `init_done` = 0. -/
theorem resetMeetsSequencerInv : Obligations.ResetMeetsSequencerInv :=
  ⟨sequencerInv_resetSequence Config.parkDataLow State.reset, fun park _ _ => sequencerInv_of_not_initDone park rfl⟩

/-! ### A reset in a push -/

section
variable {park : Bool} {v : Byte} {s : State}

/-- What a push leaves alone at every line write: `init_done`, the directions, the port's other bits, the mark `refused` and
the inputs. -/
theorem pushState_frame (n : Nat) :
    (pushState park v s n).initDone = s.initDone ∧ (pushState park v s n).dir = s.dir ∧
    (pushState park v s n).portRest = s.portRest ∧ (pushState park v s n).refusal = s.refusal ∧
    (pushState park v s n).inputs = s.inputs := by
  obtain ⟨k, -, -, h⟩ | ⟨k, -, -, h⟩ | ⟨k, -, -, h⟩ | ⟨-, h⟩ | ⟨-, h⟩ | ⟨-, h⟩ :=
    pushState_cases (park := park) (v := v) (s := s) n <;> rw [h] <;> exact ⟨rfl, rfl, rfl, rfl, rfl⟩

/-- A line write of a push in which a hold passes. -/
theorem stepWith_pushState_hold (hs : s.atRest) (l : List Input) {n : Nat} (hn : n < pushWrites park) :
    stepWith park (pushState park v (s.setInputs (.hold :: l)) n) = .next (pushState park v (s.setInputs l) (n + 1)) := by
  obtain ⟨-, hstep⟩ := stepWith_pushState (v := v) (s := s.setInputs (.hold :: l)) hs trivial hn
  exact hstep

/-- The run from line write `m` to line write `m + n`, a hold passing in each. -/
theorem runWith_pushState_holds (hs : s.atRest) (rest : List Input) (m n : Nat) (hn : m + n ≤ pushWrites park) :
    runWith park n (pushState park v (s.setInputs (List.replicate n .hold ++ rest)) m) =
      .next (pushState park v (s.setInputs rest) (m + n)) := by
  induction n generalizing m with
  | zero => rfl
  | succ n ih =>
    rw [List.replicate_succ, List.cons_append, runWith_succ_of_next (stepWith_pushState_hold hs _ (by omega)),
      ih (m + 1) (by omega), Nat.add_right_comm, Nat.add_assoc]

/-- The run of the accept step and `n` line writes, a hold passing in each. -/
theorem runWith_push_holds {c : CmdWord} {rest : List Input} {n : Nat} (hs : s.atRest)
    (hin : s.inputs = .command c :: (List.replicate n .hold ++ rest)) (hc : Pushes c v) (hn : n ≤ pushWrites park) :
    runWith park (1 + n) s = .next (pushState park v (s.setInputs rest) n) := by
  obtain ⟨-, hstep⟩ := stepWith_accept (park := park) hs hin hc
  rw [Nat.add_comm, runWith_succ_of_next hstep, runWith_pushState_holds hs rest 0 n (by omega), Nat.zero_add]

/-- INIT's writes are all to 0, so the reset sequence keeps the attached register as the line writes before it left it, and it
undoes all else that they did (70_reset_and_hazards R131). -/
theorem resetSequence_pushState (hs : s.atRest) (n : Nat) :
    (pushState park v s n).initLines.setEngine 0x00#8 0#4 .idle =
      { s with
        w := 0x00#8, k := 0#4, phase := .idle, level := ⟨false, false, false⟩
        srStore := shiftedIn s.srStore v (min 8 ((n + 1) / 3))
        srOut := if n < 25 then s.srOut else v } := by
  obtain ⟨hready, hout, -⟩ := hs
  obtain ⟨hinit, -, -⟩ := s.ready_iff.mp hready
  obtain ⟨-, -, hport, hrefusal, hinputs⟩ := pushState_frame (park := park) (v := v) (s := s) n
  have hdir : s.dir = .all .output := hout
  simp only [State.initLines, State.setEngine, hport, hrefusal, hinputs, pushState_srStore, pushState_srOut, hinit, hdir]
  rfl

end

/-- Settles O43: the state after `n` line writes, then the step with `rst`. -/
theorem resetAbortsPush : Obligations.ResetAbortsPush := by
  intro park s v rest n hs hin hn
  have hpush := runWith_push_holds hs hin (pushes_pushWord v) hn
  obtain ⟨-, -, -, -, hinputs⟩ :=
    pushState_frame (park := park) (v := v) (s := s.setInputs (.reset :: rest)) n
  rw [runWith_add park _ 1 hpush, runWith_succ_of_next (stepWith_reset park hinputs)]
  exact congrArg (fun u : State => Host.Outcome.next (u.setInputs rest))
    (resetSequence_pushState (s := s.setInputs (.reset :: rest)) hs n)

/-! ### Where Latch rises -/

/-- The phase that raises Latch is LATCH_H (10_state R20). -/
theorem phase_of_phaseLine_latch_rise {s : State} (h : phaseLine s = some (.latch, true)) : s.phase = .latchH := by
  cases hp : s.phase <;> simp [phaseLine, hp] at h ⊢

/-- Where the power is not lost, `rst` comes or nothing disturbs. -/
theorem undisturbed_or_reset_of_powered {s : State} (hp : s.powered) :
    s.undisturbed ∨ ∃ rest, s.inputs = .reset :: rest := by
  unfold State.undisturbed
  cases hin : s.inputs with
  | nil => exact .inl trivial
  | cons i rest =>
    cases i with
    | reset => exact .inr ⟨rest, rfl⟩
    | powerCycle => exact absurd hp (not_powered_of_powerCycle hin)
    | command | wait | hold => exact .inl trivial

/-- Of all writes of one line to one level only that of Latch to 1 raises Latch. -/
theorem set_latch_rise {p : PerLine Level} {l : Line} {b : Level} (hlow : p.latch = false)
    (hhigh : (p.set l b).latch = true) : l = .latch ∧ b = true := by
  cases l with
  | data | sclk => exact absurd (hlow.symm.trans hhigh) Bool.false_ne_true
  | latch => exact ⟨rfl, hhigh⟩

/-- Once initialized, a step without a power loss in which Latch rises is the engine's in LATCH_H (70_reset_and_hazards R137). -/
theorem latchH_of_latch_rise {park : Bool} {s t : State} (hp : s.powered) (hi : s.initDone = true)
    (h : stepWith park s = .next t) (hlow : s.level.latch = false) (hhigh : t.level.latch = true) :
    s.enginesTurn ∧ s.phase = .latchH := by
  obtain hu | ⟨rest, hin⟩ := undisturbed_or_reset_of_powered hp
  · obtain hkept | ⟨hturn, l, b, hline, hset⟩ := stepWith_level hu hi h
    · simp [hkept, hlow] at hhigh
    · obtain ⟨rfl, rfl⟩ := set_latch_rise hlow (hset ▸ hhigh)
      exact ⟨hturn, phase_of_phaseLine_latch_rise hline⟩
  · cases (stepWith_reset park hin).symm.trans h
    exact absurd hhigh Bool.false_ne_true

/-- The accept step of a command touches no line (41_shift_engine R85). -/
theorem acceptPush_lines {v : Byte} {s t : State} (h : acceptPush v s = .next t) : t.level = s.level ∧ t.dir = s.dir := by
  obtain ⟨-, rfl⟩ := acceptPush_cases h
  exact ⟨rfl, rfl⟩

/-- Settles O44: Latch rises in the engine's step of LATCH_H, where the invariant has `K` = 8, and both commands begin with the
accept step. -/
theorem latchOnlyAfterEightBits : Obligations.LatchOnlyAfterEightBits := by
  refine ⟨fun park s t hinv hp hi h hlow hhigh => ?_, fun v s t h => h.elim acceptPush_lines acceptPush_lines⟩
  obtain ⟨hturn, hphase⟩ := latchH_of_latch_rise hp hi h hlow hhigh
  obtain ⟨-, hk, -⟩ := phaseLatchHCopiesStore park s hinv hturn hphase
  exact ⟨hphase, hk⟩

end Sys2Proof.Machine
end


section
/-! The timing premises over the neighbours of a trace (70_reset_and_hazards R135, R136): which line operation may follow which,
in every trace, and what the premises then ask of a time-stamped one. -/
namespace Sys2Proof.Machine

/-! ### Which operation may follow which -/

/-- A ShiftClock rise follows DATA_LOW or DATA_HIGH, and a rise of ShiftClock or Latch is followed by the low
code of its line or by INIT (41_shift_engine R94). -/
def MayFollow (a b : LineCode) : Prop :=
  (b = 0b011#3 → a = 0b000#3 ∨ a = 0b001#3) ∧
  (a = 0b011#3 → b = 0b010#3 ∨ b = 0b110#3) ∧
  (a = 0b101#3 → b = 0b100#3 ∨ b = 0b110#3)

/-- What is known in a phase of the line operation `a` that was the last before it (41_shift_engine R87 to R92). -/
def LedTo (a : LineCode) : Phase → Prop
  | .idle => a ≠ 0b011#3 ∧ a ≠ 0b101#3
  | .data => a ≠ 0b011#3 ∧ a ≠ 0b101#3
  | .sclkH => a = 0b000#3 ∨ a = 0b001#3
  | .sclkL => a = 0b011#3
  | .latchH => a = 0b010#3
  | .latchL => a = 0b101#3
  | .park => a = 0b100#3
  | .reserved => True

/-- INIT may follow every operation (40_line_driver R82). -/
theorem mayFollow_init (a : LineCode) : MayFollow a 0b110#3 :=
  ⟨fun h => absurd h (by decide), fun _ => .inr rfl, fun _ => .inr rfl⟩

/-- The engine's operation may follow the one that led to its phase. -/
theorem mayFollow_phaseCode {a o : LineCode} {s : State} (hled : LedTo a s.phase) (ho : phaseCode s = some o) :
    MayFollow a o := by
  cases hp : s.phase <;> simp only [phaseCode, LedTo, hp, reduceCtorEq, Option.some.injEq] at hled ho
  case data =>
    obtain ⟨hclock, hlatch⟩ := hled
    refine ⟨fun h => ?_, fun h => absurd h hclock, fun h => absurd h hlatch⟩
    subst h
    split at ho <;> simp at ho
  case sclkH =>
    subst ho
    obtain rfl | rfl := hled <;> simp [MayFollow]
  all_goals
    subst hled ho
    simp [MayFollow]

/-- Each phase's operation leads to the phase after it. -/
theorem ledTo_advance {park : Bool} {o : LineCode} {s : State} (ho : phaseCode s = some o) :
    LedTo o (advance park s).phase := by
  cases hp : s.phase <;> simp only [phaseCode, hp, reduceCtorEq, Option.some.injEq] at ho <;>
    simp only [advance, hp, State.setEngine_phase]
  case data =>
    split at ho <;> cases ho
    · exact .inr rfl
    · exact .inl rfl
  case sclkL =>
    subst ho
    split
    · rfl
    · simp [LedTo]
  case latchL =>
    subst ho
    cases park
    · simp [LedTo]
    · rfl
  all_goals
    subst ho
    simp [LedTo]

/-- The host leads the sequencer from IDLE to IDLE or to DATA, of which the same is known. -/
theorem ledTo_hostTurn {a : LineCode} {s t : State} (hready : s.ready = true) (h : hostTurn s = .next t)
    (hled : LedTo a s.phase) : LedTo a t.phase := by
  obtain ⟨-, hp, -⟩ := s.ready_iff.mp hready
  rw [hp] at hled
  obtain ⟨-, -, -, -, -, -, ⟨ht, -⟩ | ⟨ht, -⟩⟩ := hostTurn_frame h hready <;> rwa [ht]

/-- The engine's step, where it refuses nothing, leads by its phase's operation to the next phase. -/
theorem ledTo_engineStep {park : Bool} {s t : State} (h : engineStep park s = .next t) (hp : s.phase ≠ .idle)
    (hr : s.refusal = none) (hr' : t.refusal = none) : ∃ o, phaseCode s = some o ∧ LedTo o t.phase := by
  obtain ⟨hidle, -⟩ | ⟨-, rfl⟩ | ⟨l, b, -, -, rfl⟩ | ⟨l, b, hline, -, rfl⟩ := engineStep_cases h hr
  · exact absurd hidle hp
  · simp at hr'
  · simp at hr'
  · obtain ⟨o, ho, -⟩ := lineDriver_phase hline
    exact ⟨o, ho, ledTo_advance (by simpa [phaseCode] using ho)⟩

/-! ### In every trace -/

/-- The engine, where it has steps at all, is in a phase to which the last line operation led. -/
def StandsAfter (last : Option LineCode) (s : State) : Prop :=
  s.initDone = true → s.refusal = none → ∀ a ∈ last, LedTo a s.phase

/-- What a step issues is INIT, or the code of the phase of an engine that has steps. -/
theorem issued_some {s : State} {o : LineCode} (h : issued s = some o) :
    o = 0b110#3 ∨ s.initDone = true ∧ s.refusal = none ∧ phaseCode s = some o := by
  unfold issued at h
  split at h
  · exact .inl (Option.some.inj h).symm
  · cases h
  · split_ifs at h with hi hr
    · exact .inr ⟨hi, by simpa using hr, h⟩
    · exact .inl (Option.some.inj h).symm

/-- What a step issues may follow the operation after which it stands. -/
theorem mayFollow_issued {last : Option LineCode} {s : State} {a o : LineCode} (hs : StandsAfter last s) (ha : a ∈ last)
    (ho : issued s = some o) : MayFollow a o := by
  obtain rfl | ⟨hi, hr, hcode⟩ := issued_some ho
  · exact mayFollow_init a
  · exact mayFollow_phaseCode (hs hi hr a ha) hcode

/-- The reset sequence stands after its INIT. -/
theorem standsAfter_resetSequence (s : State) :
    StandsAfter (some 0b110#3) (s.initLines.setEngine 0x00#8 0#4 .idle) := by
  rintro - - a ⟨⟩
  exact ⟨by decide, by decide⟩

/-- A step stands after the operation it issued, or where it issued none after the one before. -/
theorem standsAfter_step {park : Bool} {last : Option LineCode} {s t : State} (hs : StandsAfter last s)
    (h : stepWith park s = .next t) : StandsAfter ((issued s).or last) t := by
  obtain ⟨rest, hin, rfl⟩ | ⟨d, rest, -, rfl⟩ | ⟨hu, hi, rfl⟩ | ⟨-, -, hr, rest, -, rfl⟩ | ⟨hu, hready, hhost⟩ |
    ⟨hturn, heng⟩ := stepWith_cases h
  · rw [issued_of_reset hin]
    exact standsAfter_resetSequence (s.setInputs rest)
  · exact fun hi => absurd hi Bool.false_ne_true
  · have hissued : issued s = some 0b110#3 := by simp [issued_undisturbed hu, hi]
    rw [hissued]
    exact standsAfter_resetSequence s
  · exact fun _ hnone => absurd hnone hr
  · obtain ⟨hi, hp, hr⟩ := s.ready_iff.mp hready
    have hissued : issued s = none := by simp [issued_undisturbed hu, phaseCode, hi, hp]
    rw [hissued]
    exact fun _ _ a ha => ledTo_hostTurn hready hhost (hs hi hr a ha)
  · have ⟨_, _, hr, hp⟩ := hturn
    intro _ hr'
    obtain ⟨o, ho, hled⟩ := ledTo_engineStep heng (by simpa using hp) (by simpa using hr) hr'
    rw [issued_of_phase hturn ((phaseCode_passHold s).symm.trans ho)]
    rintro a ⟨⟩
    exact hled

/-- The operation that a step issues continues the chain of those before it. -/
theorem isChain_issued_append {last : Option LineCode} {s : State} {l : List LineCode} (hs : StandsAfter last s)
    (h : (((issued s).or last).toList ++ l).IsChain MayFollow) :
    (last.toList ++ ((issued s).toList ++ l)).IsChain MayFollow := by
  cases ho : issued s with
  | none => simpa [ho] using h
  | some o =>
    rw [ho] at h
    cases last with
    | none => exact h
    | some a => exact h.cons_cons (mayFollow_issued hs rfl ho)

/-- In every trace each line operation may follow the one before it, the first one the last operation before the trace. -/
theorem isChain_traceWith (park : Bool) (n : Nat) {last : Option LineCode} {s : State} (hs : StandsAfter last s) :
    (last.toList ++ traceWith park n s).IsChain MayFollow := by
  induction n generalizing last s with
  | zero => cases last <;> simp [traceWith]
  | succ n ih =>
    rw [traceWith]
    refine isChain_issued_append hs ?_
    split
    next t hstep => exact ih (standsAfter_step hs hstep)
    all_goals cases (issued s).or last <;> simp

/-! ### What the premises ask -/

/-- A relation holds between all neighbours of a list, counted by their positions, where the list is a chain of it. -/
theorem forall_neighbours_iff_isChain {α : Type} {R : α → α → Prop} (l : List α) :
    (∀ (j : Nat) (a b : α), l[j]? = some a → l[j + 1]? = some b → R a b) ↔ l.IsChain R := by
  rw [List.isChain_iff_getElem]
  constructor
  · intro h j hj
    exact h j _ _ (List.getElem?_eq_getElem _) (List.getElem?_eq_getElem hj)
  · intro h j a b ha hb
    obtain ⟨-, rfl⟩ := List.getElem?_eq_some_iff.mp ha
    obtain ⟨hj, rfl⟩ := List.getElem?_eq_some_iff.mp hb
    exact h j hj

/-- The setup time between neighbours (70_reset_and_hazards R135). -/
def SetupBetween (tSu : Nat) (a b : TimedOp) : Prop := b.code = 0b011#3 → a.time + tSu ≤ b.time

/-- The pulse width between neighbours (70_reset_and_hazards R136). -/
def PulseBetween (hi : LineCode) (tW : Nat) (a b : TimedOp) : Prop := a.code = hi → a.time + tW ≤ b.time

/-- Every rise of ShiftClock comes right after a write of Data, so the setup premise asks of neighbours only, and of a rise that
is first of the write before the trace. -/
theorem setupHeld_iff {tSu : Nat} {tr : List TimedOp} (htr : tr.IsChain fun a b => MayFollow a.code b.code)
    (lastData : Option Nat) :
    setupHeld tSu lastData tr = true ↔
      (∀ b ∈ tr.head?, b.code = 0b011#3 → ∀ t, lastData = some t → t + tSu ≤ b.time) ∧ tr.IsChain (SetupBetween tSu) := by
  induction tr generalizing lastData with
  | nil => simp [setupHeld]
  | cons x xs ih =>
    rw [List.isChain_cons] at htr ⊢
    obtain ⟨hnext, hxs⟩ := htr
    by_cases hdata : x.code = 0b000#3 ∨ x.code = 0b001#3 ∨ x.code = 0b110#3
    · have hne : x.code ≠ 0b011#3 := by
        obtain h | h | h := hdata <;> simp [h]
      simp [setupHeld_data hdata, ih hxs, SetupBetween, hne]
    · have hfall : ∀ y ∈ xs.head?, y.code ≠ 0b011#3 := by
        intro y hy hrise
        obtain ⟨hbefore, -⟩ := hnext y hy
        obtain h | h := hbefore hrise
        · exact hdata (.inl h)
        · exact hdata (.inr (.inl h))
      by_cases hrise : x.code = 0b011#3
      · rw [setupHeld_rise hrise, ih hxs]
        simp +contextual [SetupBetween, hrise, hfall]
      · rw [setupHeld_other hdata hrise, ih hxs]
        simp +contextual [SetupBetween, hrise, hfall]

/-- A rise is followed at once by the operation that ends its pulse, so the pulse premise asks of neighbours only, and of the
first operation where the pulse rose before the trace. -/
theorem pulseHeld_iff {hi lo : LineCode} {tW : Nat} (hlo : lo ≠ hi) (hinit : 0b110#3 ≠ hi) {tr : List TimedOp}
    (htr : tr.IsChain fun a b => a.code = hi → b.code = lo ∨ b.code = 0b110#3) (rose : Option Nat)
    (hrose : ∀ t ∈ rose, ∀ b ∈ tr.head?, b.code = lo ∨ b.code = 0b110#3) :
    pulseHeld hi lo tW rose tr = true ↔
      (∀ b ∈ tr.head?, ∀ t, rose = some t → t + tW ≤ b.time) ∧ tr.IsChain (PulseBetween hi tW) := by
  induction tr generalizing rose with
  | nil => simp [pulseHeld]
  | cons x xs ih =>
    rw [List.isChain_cons] at htr ⊢
    obtain ⟨hnext, hxs⟩ := htr
    by_cases hend : x.code = lo ∨ x.code = 0b110#3
    · have hne : x.code ≠ hi := by
        obtain h | h := hend <;> rw [h]
        · exact hlo
        · exact hinit
      rw [pulseHeld_end hne hend, ih hxs none (by simp)]
      simp [PulseBetween, hne]
    · have hnone : rose = none := Option.eq_none_iff_forall_not_mem.mpr fun t ht => hend (hrose t ht x rfl)
      subst hnone
      by_cases hrise : x.code = hi
      · rw [pulseHeld_rise hrise, ih hxs _ fun _ _ y hy => hnext y hy hrise]
        simp [PulseBetween, hrise]
      · rw [pulseHeld_other hrise hend, ih hxs none (by simp)]
        simp [PulseBetween, hrise]

/-- Settles O56: in every trace the operations follow one another as the phases have them, so that each premise is about the
neighbours. The invariant is not needed: a write that is refused is followed by no operation but INIT. -/
theorem timingIsBetweenNeighbours : Obligations.TimingIsBetweenNeighbours := by
  intro park s n tSu tW tr _ hcodes
  have htrace : (traceWith park n s).IsChain MayFollow :=
    isChain_traceWith park n (last := none) fun _ _ _ ha => absurd ha (by simp)
  have htr : tr.IsChain fun a b => MayFollow a.code b.code := by rwa [← List.isChain_map, hcodes]
  have hsetup := setupHeld_iff (tSu := tSu) htr none
  have hclock := pulseHeld_iff (tW := tW) (by decide) (by decide) (htr.imp fun _ _ ⟨_, h, _⟩ => h) none (by simp)
  have hlatch := pulseHeld_iff (tW := tW) (by decide) (by decide) (htr.imp fun _ _ ⟨_, _, h⟩ => h) none (by simp)
  simp only [reduceCtorEq, IsEmpty.forall_iff, implies_true, true_and] at hsetup hclock hlatch
  exact ⟨hsetup.trans (forall_neighbours_iff_isChain tr).symm, hclock.trans (forall_neighbours_iff_isChain tr).symm,
    hlatch.trans (forall_neighbours_iff_isChain tr).symm⟩

end Sys2Proof.Machine
end

section
/-! The words of 95_test_vectors 2.1, written out bit by bit. -/
namespace Sys2Proof

/-- Settles O5: the accepted words are the encodings of their instructions, and each refused word breaks one rule of the command
decoder: an operand of `CLEAR`, reserved bits (looked at before the operand), and an `op` that is no command's. -/
theorem writtenWordsDecode : Obligations.WrittenWordsDecode := by
  refine ⟨decode_encode (.push 0xA5#8), decode_encode .clear, ?clearImm, ?rsvBits, ?rsvOp, decode_encode .sclkHigh,
    decode_encode .init⟩
  case clearImm => exact decodeCmd_of_clear_imm_ne (by decide) (by decide) (by decide)
  case rsvBits => exact decodeCmd_of_rsv_ne (by decide)
  case rsvOp => exact decodeCmd_of_op_ne (by decide) (by decide) (by decide)

end Sys2Proof
end
